-- ==== Sys2Proof/Word.lean ====
section
/-! DEFINITION. The plainest types: bytes, 32-bit register words, PCM samples, and the IEEE 754 binary32
VALUES of 00_scope.md R10 (no rule of the spec ever looks at the bit pattern of a float, so a float is a
datum: a NaN, an infinity, or a signed finite number). -/

namespace Sys2Proof

/-- A byte (u8). -/
abbrev Byte := BitVec 8

/-- A host register word (20_memory.md R63). -/
abbrev Word := BitVec 32

/-- One signed 16-bit PCM sample, two's complement (20_memory.md R62). -/
abbrev Sample := BitVec 16

/-- An IEEE 754 binary32 value (00_scope.md R10).
`fin neg m e` is the number `(-1)^neg * m * 2^(e - 149)`; its canonical form is `F32.canonical`. -/
inductive F32 where
  | nan
  | inf (neg : Bool)
  | fin (neg : Bool) (mant exp : Nat)
  deriving DecidableEq, Repr, Inhabited

/-- The one form in which a binary32 number is written: 24 significant bits, exponent field at most 253,
and a leading one unless the number is subnormal or zero. -/
def F32.canonical : F32 → Bool
  | .nan => true
  | .inf _ => true
  | .fin _ m e => decide (m < 2 ^ 24 ∧ e ≤ 253 ∧ (e = 0 ∨ 2 ^ 23 ≤ m))

/-- `+0.0`. -/
def F32.zero : F32 := .fin false 0 0

/-- `1.0`. -/
def F32.one : F32 := .fin false (2 ^ 23) 126

end Sys2Proof
end

