-- ==== Sys2Proof/Machine/Bits.lean ====
section
/-! DEFINITION. Integer and bit helpers of the spec's notation: `ilog` (00_scope.md R9), LSB-first bit
fields (20_memory.md R64), little-endian byte fields (20_memory.md R61), `lookup1_values`
(43_codebook.md R221). -/

namespace Sys2Proof

/-- `ilog(x)`: the number of significant bits of `x` (00_scope.md R9). -/
def ilog (x : Nat) : Nat := if x = 0 then 0 else Nat.log2 x + 1

/-- The `n` bits of `v`, least significant first (20_memory.md R64). -/
def bitsOf : Nat → Nat → List Bool
  | 0, _ => []
  | n + 1, v => (v % 2 == 1) :: bitsOf n (v / 2)

/-- Read an `n`-bit field, LSB first; bits past the end of the list read as 0
(41_bitreader.md R151, R154). The second component is what is left. -/
def takeNat : Nat → List Bool → Nat × List Bool
  | 0, bs => (0, bs)
  | _ + 1, [] => (0, [])
  | n + 1, b :: bs => (b.toNat + 2 * (takeNat n bs).1, (takeNat n bs).2)

/-- Read one field as a bit vector of its width. -/
def takeBv (n : Nat) (bs : List Bool) : BitVec n × List Bool :=
  (BitVec.ofNat n (takeNat n bs).1, (takeNat n bs).2)

/-- Read a one-bit field. -/
def takeBit (bs : List Bool) : Bool × List Bool :=
  match bs with
  | [] => (false, [])
  | b :: rest => (b, rest)

/-- The bits of a byte string in stream order: bit `p` is bit `p mod 8` of byte `p >> 3`
(20_memory.md R64). -/
def bitsOfBytes (bytes : List Byte) : List Bool :=
  bytes.flatMap (fun b => bitsOf 8 b.toNat)

/-- The bytes of a bit string, LSB first; an incomplete last byte is filled with zeros. -/
def bytesOfBits : Nat → List Bool → List Byte
  | 0, _ => []
  | n + 1, bs => (takeBv 8 bs).1 :: bytesOfBits n (takeBv 8 bs).2

/-- The value of a little-endian byte field (20_memory.md R61). -/
def leNat : List Byte → Nat
  | [] => 0
  | b :: rest => b.toNat + 256 * leNat rest

/-- The `n` bytes of `v`, low byte first (20_memory.md R61). -/
def leBytes : Nat → Nat → List Byte
  | 0, _ => []
  | n + 1, v => BitVec.ofNat 8 v :: leBytes n (v / 256)

/-- Binary search for the largest `v` with `v ^ dims ≤ entries`, one bit at a time from bit `b - 1` down. -/
def rootBits (entries dims : Nat) : Nat → Nat → Nat
  | 0, v => v
  | b + 1, v => rootBits entries dims b (if (v + 2 ^ b) ^ dims ≤ entries then v + 2 ^ b else v)

/-- `lookup1_values(entries, dims)` for `dims ≥ 1`: the largest `v` with `v ^ dims ≤ entries`
(43_codebook.md R221). -/
def lookup1Values (entries dims : Nat) : Nat := rootBits entries dims (ilog entries) 0

/-- Saturating addition at `2^w - 1` (10_state.md R37). -/
def satAdd (w a b : Nat) : Nat := min (a + b) (2 ^ w - 1)

/-- Replace element `i` of a list by `f` of it. -/
def modifyAt {α : Type} (l : List α) (i : Nat) (f : α → α) : List α := l.modify i f

/-- The sum of a list of numbers. -/
def total : List Nat → Nat
  | [] => 0
  | x :: xs => x + total xs

end Sys2Proof
end

