-- ==== Sys2Proof/Machine/Float.lean ====
section
/-! DEFINITION. The numeric record `NUM` (00_scope.md R6, R10): binary32 arithmetic, one rounding to nearest even
per operation, no fused multiply-add; and the conversion to 16-bit PCM (47_synthesis.md R329). Operands are
turned into exact integers, computed exactly, and rounded once. -/

namespace Sys2Proof

/-- `m / 2^d` rounded to the nearest integer, ties to even. -/
def roundHalfEven (m d : Nat) : Nat :=
  let q := m >>> d
  let r := m % 2 ^ d
  if 2 * r > 2 ^ d ∨ (2 * r = 2 ^ d ∧ q % 2 = 1) then q + 1 else q

/-- The exponent field at which a number of `len` significant bits, scaled by `2^(sh - 149)`, is rounded. -/
def F32.roundExp (len : Nat) (sh : Int) : Int := max 0 ((len : Int) + sh - 24)

/-- `rnd32` of the number `(-1)^neg * m * 2^(sh - 149)` (00_scope.md R10): subnormals below, infinity above. -/
def F32.round (neg : Bool) (m : Nat) (sh : Int) : F32 :=
  if m = 0 then .fin neg 0 0
  else
    let e := F32.roundExp (ilog m) sh
    let d := e - sh
    let q := if d ≤ 0 then m <<< (-d).toNat else roundHalfEven m d.toNat
    if q = 2 ^ 24 then (if e + 1 > 253 then .inf neg else .fin neg (2 ^ 23) (e + 1).toNat)
    else if e > 253 then .inf neg
    else .fin neg q e.toNat

/-- A finite number as an integer multiple of `2^-149`. -/
def F32.scaled (neg : Bool) (m e : Nat) : Int :=
  if neg then -((m <<< e : Nat) : Int) else ((m <<< e : Nat) : Int)

/-- Change of sign. -/
def F32.neg : F32 → F32
  | .nan => .nan
  | .inf s => .inf (!s)
  | .fin s m e => .fin (!s) m e

/-- `fadd` (00_scope.md R10). -/
def F32.add : F32 → F32 → F32
  | .nan, _ => .nan
  | _, .nan => .nan
  | .inf s, .inf t => if s = t then .inf s else .nan
  | .inf s, .fin _ _ _ => .inf s
  | .fin _ _ _, .inf t => .inf t
  | .fin s m e, .fin t n f =>
    let v := F32.scaled s m e + F32.scaled t n f
    if v = 0 then .fin (s && t) 0 0 else F32.round (decide (v < 0)) v.natAbs 0

/-- `fsub` (00_scope.md R10). -/
def F32.sub (a b : F32) : F32 := F32.add a b.neg

/-- `fmul` (00_scope.md R10). -/
def F32.mul : F32 → F32 → F32
  | .nan, _ => .nan
  | _, .nan => .nan
  | .inf s, .inf t => .inf (s != t)
  | .inf s, .fin t n _ => if n = 0 then .nan else .inf (s != t)
  | .fin s m _, .inf t => if m = 0 then .nan else .inf (s != t)
  | .fin s m e, .fin t n f => F32.round (s != t) (m * n) ((e : Int) + f - 149)

/-- The IEEE comparison `x > +0.0` (46_audio_packet.md R306): false for a NaN and for `-0.0`. -/
def F32.gtZero : F32 → Bool
  | .nan => false
  | .inf s => !s
  | .fin s m _ => !s && m != 0

/-- `rnd32` of a non-negative integer (43_codebook.md R226). -/
def F32.ofNat (n : Nat) : F32 := F32.round false n 149

/-- Whether a value is a zero of either sign. -/
def F32.isZero : F32 → Bool
  | .fin _ m _ => m == 0
  | _ => false

/-- Whether a value is a number (neither infinite nor a NaN). -/
def F32.isFinite : F32 → Bool
  | .fin _ _ _ => true
  | _ => false

/-- The integer nearest to `m * 2^(e - 149) * 32768`, ties to even (47_synthesis.md R329). -/
def pcmScaled (m e : Nat) : Nat :=
  if 134 ≤ e then m <<< (e - 134) else roundHalfEven m (134 - e)

/-- `pcm16` as an integer in -32768..32767 (47_synthesis.md R329): a NaN gives 0, the rest saturates. -/
def pcmInt : F32 → Int
  | .nan => 0
  | .inf s => if s then -32768 else 32767
  | .fin s m e =>
    let r : Int := if s then -(pcmScaled m e : Int) else (pcmScaled m e : Int)
    min 32767 (max (-32768) r)

/-- `pcm16` (47_synthesis.md R329). -/
def pcm16 (x : F32) : Sample := BitVec.ofInt 16 (pcmInt x)

/-- The two bytes of a sample at the sink, low byte first (20_memory.md R62). -/
def sampleBytes (s : Sample) : List Byte := [s.extractLsb' 0 8, s.extractLsb' 8 8]

/-- If every number of the interval `[lo, hi] * 2^(sh - 149)` rounds to one binary32 value, that value. -/
def F32.roundInterval (lo hi : Int) (sh : Int) : Option F32 :=
  if lo = 0 ∧ hi = 0 then some F32.zero
  else if (0 < lo ∨ hi < 0)
      ∧ F32.round (decide (lo < 0)) lo.natAbs sh = F32.round (decide (hi < 0)) hi.natAbs sh then
    some (F32.round (decide (lo < 0)) lo.natAbs sh)
  else none

end Sys2Proof
end

