-- ==== Sys2Proof/Syntax.lean ====
section
/-! DEFINITION. The instructions of the core: the wire-format units of 00_scope.md R3, one constructor per
row of spec/opcode_table.json, each with its operand fields AS THEY STAND IN THE STREAM (raw values,
30_encoding.md R80 to R94); operand assembly (30_encoding.md R95) is Machine/Operands.lean. -/

namespace Sys2Proof

/-- An Ogg page whose selector is legal: capture "OggS", version 0, header type 0..7 (30_encoding.md R80).
`NSEG` is the number of segments. -/
structure Page where
  htype : BitVec 3
  granule : BitVec 64
  serial : BitVec 32
  sequence : BitVec 32
  crc : BitVec 32
  segs : List Byte
  payload : List Byte
  deriving DecidableEq, Repr, Inhabited

/-- The fields of the identification header after its prefix (30_encoding.md R83). -/
structure IdFields where
  version : BitVec 32
  channels : BitVec 8
  rate : BitVec 32
  brMax : BitVec 32
  brNom : BitVec 32
  brMin : BitVec 32
  e0 : BitVec 4
  e1 : BitVec 4
  framing : Bool
  deriving DecidableEq, Repr, Inhabited

/-- One user comment (30_encoding.md R84). -/
structure Comment where
  len : BitVec 32
  bytes : List Byte
  deriving DecidableEq, Repr, Inhabited

/-- The fields of the comment header after its prefix (30_encoding.md R84). The byte strings are the
bytes the packet really holds: a length that runs past the packet's end leaves them short. -/
structure CommentFields where
  vendorLen : BitVec 32
  vendor : List Byte
  count : BitVec 32
  comments : List Comment
  framing : Bool
  deriving DecidableEq, Repr, Inhabited

/-- The fields of lookup types 1 and 2 (30_encoding.md R86). -/
structure VqFields where
  minimum : BitVec 32
  delta : BitVec 32
  valueBitsM1 : BitVec 4
  seq : Bool
  mult : List Nat
  deriving DecidableEq, Repr, Inhabited

/-- One floor class (30_encoding.md R88). The masterbook is present exactly when `sub ≠ 0`. -/
structure ClassFields where
  dimM1 : BitVec 3
  sub : BitVec 2
  master : Option (BitVec 8)
  books : List (BitVec 8)
  deriving DecidableEq, Repr, Inhabited

/-- The body of a type-1 floor (30_encoding.md R88). The partition count is the length of `partClass`. -/
structure FloorFields where
  partClass : List (BitVec 4)
  classes : List ClassFields
  multM1 : BitVec 2
  rangebits : BitVec 4
  xs : List Nat
  deriving DecidableEq, Repr, Inhabited

/-- One cascade field: 3 low bits, and 5 high bits when its flag is 1 (30_encoding.md R89). -/
structure CascadeFields where
  low : BitVec 3
  high : Option (BitVec 5)
  deriving DecidableEq, Repr, Inhabited

/-- The body of a residue (30_encoding.md R89). `books` holds, per classification, one index for each set
bit of its cascade, in the order of the bits. -/
structure ResidueFields where
  begin : BitVec 24
  stop : BitVec 24
  psizeM1 : BitVec 24
  classificationsM1 : BitVec 6
  classbook : BitVec 8
  cascade : List CascadeFields
  books : List (List (BitVec 8))
  deriving DecidableEq, Repr, Inhabited

/-- The residue type, 0, 1 or 2 (10_state.md R30). -/
inductive ResType where
  | t0 | t1 | t2
  deriving DecidableEq, Repr, Inhabited

/-- One submap of a mapping (30_encoding.md R90). -/
structure SubmapFields where
  placeholder : BitVec 8
  floor : BitVec 8
  residue : BitVec 8
  deriving DecidableEq, Repr, Inhabited

/-- The body of a mapping (30_encoding.md R90). `submapsM1` and `coupling` are absent when their flag
is 0; each coupling step is a (magnitude, angle) pair. -/
structure MapFields where
  submapsM1 : Option (BitVec 4)
  coupling : Option (List (Nat × Nat))
  reserved : BitVec 2
  mux : List (BitVec 4)
  subs : List SubmapFields
  deriving DecidableEq, Repr, Inhabited

/-- The instructions (spec/opcode_table.json, 00_scope.md R3). The codewords of the floor and residue
payloads are variable-length forms (30_encoding.md R99) that the meaning reads from the packet, so they
are no operand fields here. -/
inductive Instr where
  /-- OGG_PAGE (40_ogg_demuxer.md R120). -/
  | oggPage (p : Page)
  /-- ID_HDR (42_headers.md R172). -/
  | idHdr (f : IdFields)
  /-- COMMENT_HDR (42_headers.md R175). -/
  | commentHdr (f : CommentFields)
  /-- SETUP_HDR (42_headers.md R176): the prefix and the codebook count; the five later counts and the
  framing bit stand between and after the sub-units and are read there by the sequencer. -/
  | setupHdr (codebookCountM1 : BitVec 8)
  /-- CODEBOOK (43_codebook.md R210). -/
  | codebook (dims : BitVec 16) (entries : BitVec 24)
  /-- CB_LEN_DENSE (43_codebook.md R211). -/
  | cbLenDense (lens : List (BitVec 5))
  /-- CB_LEN_SPARSE (43_codebook.md R212). -/
  | cbLenSparse (lens : List (Option (BitVec 5)))
  /-- CB_LEN_ORDERED (43_codebook.md R214). -/
  | cbLenOrdered (initM1 : BitVec 5) (counts : List Nat)
  /-- CB_LOOKUP0 (43_codebook.md R215). -/
  | cbLookup0
  /-- CB_LOOKUP1 (43_codebook.md R215). -/
  | cbLookup1 (f : VqFields)
  /-- CB_LOOKUP2 (43_codebook.md R215). -/
  | cbLookup2 (f : VqFields)
  /-- TIME_ENTRY (42_headers.md R177). -/
  | timeEntry
  /-- FLOOR1 (44_floor1.md R250). -/
  | floor1 (f : FloorFields)
  /-- RES0 (45_residue.md R280). -/
  | res0 (f : ResidueFields)
  /-- RES1 (45_residue.md R280). -/
  | res1 (f : ResidueFields)
  /-- RES2 (45_residue.md R280). -/
  | res2 (f : ResidueFields)
  /-- MAP0 (42_headers.md R178). -/
  | map0 (f : MapFields)
  /-- MODE (42_headers.md R182). -/
  | mode (blockflag : Bool) (mapping : BitVec 8)
  /-- AUDIO_PACKET (46_audio_packet.md R300). -/
  | audioPacket (mode : Nat)
  /-- WINDOW_FLAGS (46_audio_packet.md R301). -/
  | windowFlags (prev next : Bool)
  /-- FLOOR1_PAYLOAD_UNUSED (44_floor1.md R255). -/
  | floor1PayloadUnused
  /-- FLOOR1_PAYLOAD_PRESENT (44_floor1.md R257). -/
  | floor1PayloadPresent (y0 y1 : Nat)
  /-- RES0_PAYLOAD (45_residue.md R287). -/
  | res0Payload
  /-- RES1_PAYLOAD (45_residue.md R288). -/
  | res1Payload
  /-- RES2_PAYLOAD (45_residue.md R289). -/
  | res2Payload
  deriving DecidableEq, Repr, Inhabited

end Sys2Proof
end

