-- ==== Sys2Proof/Machine/Operands.lean ====
section
/-! DEFINITION. Every operand form of 30_encoding.md R95: raw, raw signed, plus one, minus one, power of two,
split field, packed float, computed width. -/

namespace Sys2Proof

/-- "raw signed": the s32 whose two's-complement pattern is the field (41_bitreader.md R156). -/
def signed32 (v : BitVec 32) : Int := v.toInt

/-- "plus one" (30_encoding.md R95). -/
def plusOne {w : Nat} (v : BitVec w) : Nat := v.toNat + 1

/-- "minus one": a subclass book field; `none` is -1, no book (30_encoding.md R95). -/
def minusOne (v : BitVec 8) : Option Nat := if v = 0 then none else some (v.toNat - 1)

/-- "power of two" (30_encoding.md R95). -/
def powerOfTwo {w : Nat} (v : BitVec w) : Nat := 2 ^ v.toNat

/-- "split field": the residue cascade, `high * 8 + low` (30_encoding.md R89, 45_residue.md R281). -/
def cascadeValue (c : CascadeFields) : Nat :=
  (match c.high with
    | some h => h.toNat
    | none => 0) * 8 + c.low.toNat

/-- "packed float": `float32_unpack` (43_codebook.md R220). A zero mantissa gives `+0.0`. -/
def float32Unpack (x : BitVec 32) : F32 :=
  let mant : Nat := x.toNat % 2 ^ 21
  let ex : Nat := x.toNat / 2 ^ 21 % 2 ^ 10
  if mant = 0 then F32.zero else F32.round (decide (2 ^ 31 ≤ x.toNat)) mant ((ex : Int) - 788 + 149)

/-- The submap count: 1, or the 4-bit field plus one (42_headers.md R178). -/
def submapCount (v : Option (BitVec 4)) : Nat :=
  match v with
  | none => 1
  | some k => plusOne k

/-- "computed width" of a coupling channel index: `ilog(CFG_CHANNELS - 1)` (42_headers.md R179). -/
def couplingWidth (channels : Nat) : Nat := ilog (channels - 1)

/-- "computed width" of the mode number: `ilog(N_MODES - 1)` (46_audio_packet.md R300). -/
def modeWidth (modes : Nat) : Nat := ilog (modes - 1)

/-- `range(F)` of a floor multiplier 1..4 (44_floor1.md R256). -/
def floorRange (multiplier : Nat) : Nat :=
  match multiplier with
  | 1 => 256
  | 2 => 128
  | 3 => 86
  | _ => 64

/-- "computed width" of the two floor baseline values: `ilog(range - 1)` (44_floor1.md R256). -/
def floorYWidth (range : Nat) : Nat := ilog (range - 1)

/-- "computed width" of an ordered count: `ilog(entries - cur)` (43_codebook.md R214). -/
def countWidth (entries cur : Nat) : Nat := ilog (entries - cur)

/-- The number of set bits among bits 0..7 of a cascade: the pass books that follow (45_residue.md R282). -/
def passCount (cascade : Nat) : Nat :=
  total ((List.range 8).map (fun p => if cascade.testBit p then 1 else 0))

/-- The number of classes read: the largest class of the partition list plus one, 0 for an empty list
(44_floor1.md R251). -/
def classCount (partClass : List (BitVec 4)) : Nat :=
  partClass.foldl (fun acc c => max acc (c.toNat + 1)) 0

/-- The number of X values read after the two fixed ones: one per class-dimension slot of every partition
(44_floor1.md R254). -/
def xCount (partClass : List (BitVec 4)) (dims : List Nat) : Nat :=
  total (partClass.map (fun c => dims.getD c.toNat 0))

/-- The number of subclass books of a class (44_floor1.md R252). -/
def subBookCount (sub : BitVec 2) : Nat := 2 ^ sub.toNat

/-- The number of multiplicands lookup type 1 or 2 reads (43_codebook.md R215): none when the lookup is
refused (type 1 with dimension 0) or does not fit in `room` more multiplicands. -/
def lookupValueCount (t entries dims : Nat) : Nat :=
  if t = 1 then lookup1Values entries dims else entries * dims

/-- How many multiplicands stand in the stream after a lookup head that is not refused. -/
def multCount (t entries dims room : Nat) : Nat :=
  if t = 1 ∧ dims = 0 then 0
  else if room < lookupValueCount t entries dims then 0
  else lookupValueCount t entries dims

end Sys2Proof
end

