-- ==== Sys2Proof/Machine/Errors.lean ====
section
/-! DEFINITION. The cause codes of a fatal error (60_exceptions.md R352) and the two classes of error
(60_exceptions.md R350). -/

namespace Sys2Proof

/-- The causes of 60_exceptions.md R352, one constructor each, in the table's order. -/
inductive ErrCode where
  | pageCapture | pageVersion | pageHtype | pageCrc | pageTruncated | streamTruncated | capacity
  | hdrType | hdrMagic | hdrFraming | idVersion | idChannels | idRate | idBlocksize
  | cbSync | cbOrdered | cbLookup | cbLookup1Dim0 | cbOverspec | cbNoVq | cbZeroDim | huffInvalid
  | timeNonzero | floorType | floorBook | floorNeighbor | resType | resBook
  | mapType | mapCoupling | mapReserved | mapMux | mapFloor | mapResidue
  | modeWindow | modeTransform | modeMapping
  | audioType | audioMode | floorAmplitude | resOverrun
  | io
  deriving DecidableEq, Repr, Inhabited

/-- The number `ERR_CODE` takes for a cause (60_exceptions.md R352). -/
def ErrCode.number : ErrCode → Nat
  | .pageCapture => 1 | .pageVersion => 2 | .pageHtype => 3 | .pageCrc => 4
  | .pageTruncated => 5 | .streamTruncated => 6 | .capacity => 7
  | .hdrType => 16 | .hdrMagic => 17 | .hdrFraming => 18
  | .idVersion => 19 | .idChannels => 20 | .idRate => 21 | .idBlocksize => 22
  | .cbSync => 32 | .cbOrdered => 33 | .cbLookup => 34 | .cbLookup1Dim0 => 35
  | .cbOverspec => 36 | .cbNoVq => 37 | .cbZeroDim => 38 | .huffInvalid => 39
  | .timeNonzero => 48 | .floorType => 49 | .floorBook => 50 | .floorNeighbor => 51
  | .resType => 52 | .resBook => 53
  | .mapType => 54 | .mapCoupling => 55 | .mapReserved => 56 | .mapMux => 57
  | .mapFloor => 58 | .mapResidue => 59
  | .modeWindow => 60 | .modeTransform => 61 | .modeMapping => 62
  | .audioType => 64 | .audioMode => 65 | .floorAmplitude => 66 | .resOverrun => 67
  | .io => 128

/-- `ERR_CLASS` (10_state.md R36): 0 none, 1 FormatError, 2 IOError. -/
inductive ErrClass where
  | none | format | io
  deriving DecidableEq, Repr, Inhabited

/-- The two-bit value of `ERR_CLASS` (10_state.md R36). -/
def ErrClass.number : ErrClass → Nat
  | .none => 0 | .format => 1 | .io => 2

/-- The class a cause belongs to (60_exceptions.md R352, column "class"). -/
def ErrCode.cls : ErrCode → ErrClass
  | .io => .io
  | _ => .format

end Sys2Proof
end

