-- ==== Sys2Proof/Config.lean ====
section
/-! DEFINITION. What an implementation fixes (00_scope.md R6). The parameters that are numbers, tables or choices are
PLAIN DATA (`Params`), held in State, read by the core and written by nothing; the two that are functions are a
choice (`Impl`) between the spec's default and an implementation's own function, which is a constant with no body.
The last two constants are the FREE VALUES of the model: results the spec does not state. -/

namespace Sys2Proof

/-- The output of the first audio packet (47_synthesis.md R327). -/
inductive FirstPacketMode where
  | zeroQuarter | none
  deriving DecidableEq, Repr, Inhabited

/-- An OPEN function of the numeric pipeline (00_scope.md R6): the default the spec names, or the own function
of implementation number `k`. -/
inductive Impl where
  | reference
  | own (k : Nat)
  deriving DecidableEq, Repr, Inhabited

/-- The implementation parameters of 00_scope.md R6. -/
structure Params where
  /-- MAX_PACKET_BYTES, at least 65025. -/
  maxPacketBytes : Nat
  /-- MAX_HUFF_NODES. -/
  maxHuffNodes : Nat
  /-- MAX_MULTIPLICANDS. -/
  maxMultiplicands : Nat
  /-- FLOOR1_INV_DB, 256 values. -/
  invDb : List F32
  /-- IMDCT_IMPL. -/
  imdct : Impl
  /-- WIN_IMPL. -/
  window : Impl
  /-- FIRST_PACKET_MODE. -/
  firstPacket : FirstPacketMode
  /-- REGS_BASE (20_memory.md R68). -/
  regsBase : Nat
  deriving DecidableEq, Repr, Inhabited

/-- What 00_scope.md R6 and 44_floor1.md R265 ask of a parameter set; and what the model takes besides (DESIGN CHOICE): a base
address that is a multiple of 4 (log 15), and a packet of which `PKT_BITPOS`, a u35, reaches every bit (log 30). -/
def Params.wf (p : Params) : Bool :=
  decide (65025 ≤ p.maxPacketBytes) && decide (p.invDb.length = 256) && decide (p.regsBase % 4 = 0)
    && decide (p.maxPacketBytes < 2 ^ 32)

/-- Sample `i` of the inverse MDCT of implementation `k`, for a spectrum that is not all zero, block size `n`
(47_synthesis.md R321, OPEN). Free. -/
opaque Config.imdctImpl (k : Nat) (spectrum : List F32) (n i : Nat) : F32

/-- The window slope value of implementation `k` (47_synthesis.md R323, OPEN). Free. -/
opaque Config.winImpl (k l j : Nat) : F32

/-- FREE VALUE: sample `i` of the reference inverse MDCT where the spec states no number (a spectrum with an
infinity or a NaN has no real sum) or where the model's exact bounds do not decide the rounding (log 11). -/
opaque Config.imdctFree (spectrum : List F32) (n i : Nat) : F32

/-- FREE VALUE: the reference window slope where the model's exact bounds do not decide the rounding (log 12). -/
opaque Config.winFree (l j : Nat) : F32

end Sys2Proof
end

