-- ==== Sys2Proof/Machine/FloorTable.lean ====
section
/-! DEFINITION. The default of `FLOOR1_INV_DB`: `rnd32(10^(7*(i - 255)/256))` for `i` in 0..255 (44_floor1.md R265),
as (mantissa, exponent field) pairs. Sys2Proof/Tests/Slice0.lean checks every entry against the formula in exact integer arithmetic. -/

namespace Sys2Proof

/-- Entries 0 to 15. -/
def invDbRow0 : List (Nat × Nat) :=
  [(14988340, 102), (15962367, 102), (8499846, 103), (9052214, 103),
   (9640478, 103), (10266970, 103), (10934176, 103), (11644740, 103),
   (12401481, 103), (13207399, 103), (14065690, 103), (14979758, 103),
   (15953227, 103), (8494979, 104), (9047031, 104), (9634958, 104)]

/-- Entries 16 to 31. -/
def invDbRow1 : List (Nat × Nat) :=
  [(10261091, 104), (10927915, 104), (11638072, 104), (12394380, 104),
   (13199837, 104), (14057636, 104), (14971181, 104), (15944092, 104),
   (8490115, 105), (9041850, 105), (9629441, 105), (10255216, 105),
   (10921658, 105), (11631409, 105), (12387283, 105), (13192278, 105)]

/-- Entries 32 to 47. -/
def invDbRow2 : List (Nat × Nat) :=
  [(14049587, 105), (14962608, 105), (15934963, 105), (8485253, 106),
   (9036673, 106), (9623927, 106), (10249344, 106), (10915404, 106),
   (11624748, 106), (12380190, 106), (13184725, 106), (14041542, 106),
   (14954041, 106), (15925839, 106), (8480395, 107), (9031499, 107)]

/-- Entries 48 to 63. -/
def invDbRow3 : List (Nat × Nat) :=
  [(9618416, 107), (10243475, 107), (10909154, 107), (11618092, 107),
   (12373101, 107), (13177175, 107), (14033502, 107), (14945478, 107),
   (15916720, 107), (8475539, 108), (9026327, 108), (9612909, 108),
   (10237610, 108), (10902907, 108), (11611440, 108), (12366017, 108)]

/-- Entries 64 to 79. -/
def invDbRow4 : List (Nat × Nat) :=
  [(13169630, 108), (14025467, 108), (14936921, 108), (15907606, 108),
   (8470686, 109), (9021159, 109), (9607405, 109), (10231748, 109),
   (10896664, 109), (11604791, 109), (12358936, 109), (13162089, 109),
   (14017436, 109), (14928368, 109), (15898497, 109), (8465836, 110)]

/-- Entries 80 to 95. -/
def invDbRow5 : List (Nat × Nat) :=
  [(9015993, 110), (9601903, 110), (10225889, 110), (10890425, 110),
   (11598146, 110), (12351859, 110), (13154553, 110), (14009410, 110),
   (14919820, 110), (15889394, 110), (8460988, 111), (9010831, 111),
   (9596405, 111), (10220034, 111), (10884189, 111), (11591505, 111)]

/-- Entries 96 to 111. -/
def invDbRow6 : List (Nat × Nat) :=
  [(12344787, 111), (13147020, 111), (14001388, 111), (14911277, 111),
   (15880296, 111), (8456143, 112), (9005671, 112), (9590911, 112),
   (10214182, 112), (10877957, 112), (11584868, 112), (12337718, 112),
   (13139492, 112), (13993371, 112), (14902739, 112), (15871203, 112)]

/-- Entries 112 to 127. -/
def invDbRow7 : List (Nat × Nat) :=
  [(8451301, 113), (9000515, 113), (9585419, 113), (10208333, 113),
   (10871728, 113), (11578235, 113), (12330653, 113), (13131969, 113),
   (13985358, 113), (14894206, 113), (15862115, 113), (8446462, 114),
   (8995361, 114), (9579930, 114), (10202488, 114), (10865503, 114)]

/-- Entries 128 to 143. -/
def invDbRow8 : List (Nat × Nat) :=
  [(11571605, 114), (12323593, 114), (13124450, 114), (13977350, 114),
   (14885677, 114), (15853032, 114), (8441626, 115), (8990210, 115),
   (9574445, 115), (10196646, 115), (10859282, 115), (11564979, 115),
   (12316537, 115), (13116935, 115), (13969347, 115), (14877154, 115)]

/-- Entries 144 to 159. -/
def invDbRow9 : List (Nat × Nat) :=
  [(15843955, 115), (8436792, 116), (8985063, 116), (9568963, 116),
   (10190808, 116), (10853064, 116), (11558357, 116), (12309484, 116),
   (13109424, 116), (13961348, 116), (14868635, 116), (15834883, 116),
   (8431961, 117), (8979918, 117), (9563483, 117), (10184973, 117)]

/-- Entries 160 to 175. -/
def invDbRow10 : List (Nat × Nat) :=
  [(10846849, 117), (11551739, 117), (12302436, 117), (13101918, 117),
   (13953354, 117), (14860122, 117), (15825816, 117), (8427133, 118),
   (8974776, 118), (9558007, 118), (10179141, 118), (10840639, 118),
   (11545124, 118), (12295392, 118), (13094415, 118), (13945364, 118)]

/-- Entries 176 to 191. -/
def invDbRow11 : List (Nat × Nat) :=
  [(14851613, 118), (15816754, 118), (8422308, 119), (8969637, 119),
   (9552535, 119), (10173312, 119), (10834431, 119), (11538514, 119),
   (12288351, 119), (13086918, 119), (13937379, 119), (14843109, 119),
   (15807698, 119), (8417485, 120), (8964501, 120), (9547065, 120)]

/-- Entries 192 to 207. -/
def invDbRow12 : List (Nat × Nat) :=
  [(10167487, 120), (10828228, 120), (11531907, 120), (12281315, 120),
   (13079424, 120), (13929399, 120), (14834610, 120), (15798646, 120),
   (8412666, 121), (8959368, 121), (9541598, 121), (10161665, 121),
   (10822027, 121), (11525304, 121), (12274283, 121), (13071935, 121)]

/-- Entries 208 to 223. -/
def invDbRow13 : List (Nat × Nat) :=
  [(13921423, 121), (14826115, 121), (15789600, 121), (8407849, 122),
   (8954238, 122), (9536135, 122), (10155847, 122), (10815831, 122),
   (11518704, 122), (12267255, 122), (13064450, 122), (13913452, 122),
   (14817626, 122), (15780559, 122), (8403034, 123), (8949111, 123)]

/-- Entries 224 to 239. -/
def invDbRow14 : List (Nat × Nat) :=
  [(9530674, 123), (10150031, 123), (10809638, 123), (11512109, 123),
   (12260231, 123), (13056969, 123), (13905485, 123), (14809142, 123),
   (15771523, 123), (8398223, 124), (8943987, 124), (9525217, 124),
   (10144220, 124), (10803448, 124), (11505517, 124), (12253210, 124)]

/-- Entries 240 to 255. -/
def invDbRow15 : List (Nat × Nat) :=
  [(13049493, 124), (13897523, 124), (14800662, 124), (15762492, 124),
   (8393414, 125), (8938865, 125), (9519763, 125), (10138411, 125),
   (10797262, 125), (11498929, 125), (12246194, 125), (13042021, 125),
   (13889565, 125), (14792187, 125), (15753467, 125), (8388608, 126)]

/-- The default inverse-dB table (44_floor1.md R265). -/
def invDbPairs : List (Nat × Nat) :=
  invDbRow0 ++ invDbRow1 ++ invDbRow2 ++ invDbRow3 ++ invDbRow4 ++ invDbRow5 ++ invDbRow6 ++ invDbRow7
    ++ invDbRow8 ++ invDbRow9 ++ invDbRow10 ++ invDbRow11 ++ invDbRow12 ++ invDbRow13 ++ invDbRow14 ++ invDbRow15

/-- The default inverse-dB table as binary32 values. -/
def invDbDefault : List F32 := invDbPairs.map (fun p => F32.fin false p.1 p.2)

/-- The parameters of `State.reset`: the decided values and the defaults of 00_scope.md R6; the capacities and the
base address are OPEN and their values here are DESIGN CHOICES (log 9). -/
def defaultParams : Params :=
  { maxPacketBytes := 1048576
    maxHuffNodes := 1048576
    maxMultiplicands := 1048576
    invDb := invDbDefault
    imdct := .reference
    window := .reference
    firstPacket := .zeroQuarter
    regsBase := 0 }

end Sys2Proof
end

