-- ==== Sys2Proof/Machine/State.lean ====
section
/-! DEFINITION. The whole state of the core as plain data (10_state.md), the inputs and the output list that lie
outside it, the reasons a step can stop, and the state after reset (70_reset_and_hazards.md R381). -/

namespace Sys2Proof.Machine

open Sys2Proof

/-! ### Why a step stops -/

/-- The machine stops with a fault. Both faults are safe: the spec says no rule makes the access, and the model
stops where a state that no run reaches would make it. -/
inductive Fault where
  /-- Raised by the audio meanings and operations when a configuration entry is read that was never written
  (10_state.md R33 lets a model fault it). Safe. -/
  | configAbsent
  /-- Raised when an index falls outside an internal buffer (00_scope.md R11: never made by a rule). Safe. -/
  | bufferBounds
  deriving DecidableEq, Repr, Inhabited

/-- A step that the model has no meaning for. -/
inductive Refusal where
  /-- Raised by `exec` for an instruction that has no meaning yet. Safe. -/
  | notModelled (mnemonic : String)
  /-- Raised by a take that would make `SRC_POS` pass its 64 bits: such a run is not admitted (10_state.md R23,
  93_implementation_defined.md I18). Safe. -/
  | srcPosWidth
  /-- Raised by the completion of a packet that would make `PACKET_NO` pass its 32 bits: such a run is not admitted
  (10_state.md R23, 93_implementation_defined.md I18). Safe. -/
  | packetNoWidth
  /-- Raised by a host write at an address that is not a multiple of 4: the model has no step for it
  (20_memory.md R63, 93_implementation_defined.md I13). Safe. -/
  | hostAccess
  deriving DecidableEq, Repr, Inhabited

/-! ### Registers of the stream position and the page (10_state.md R21 to R25) -/

/-- `PHASE` (10_state.md R21). Value 7 is never taken, so it has no name. -/
inductive Phase where
  | idle | hdrId | hdrComment | hdrSetup | audio | done | error
  deriving DecidableEq, Repr, Inhabited

/-- The counted sections of the setup header after the codebooks (42_headers.md R176). -/
inductive Section where
  | time | floor | residue | mapping | mode
  deriving DecidableEq, Repr, Inhabited

/-- Where the sequencer stands inside a core step: which unit is decoded next, or which internal operation runs
next. The model's own field (log 1). -/
inductive Seq where
  /-- Between two core steps (42_headers.md R170). -/
  | boundary
  /-- In `next_packet` (40_ogg_demuxer.md R127), with its local `started`. -/
  | assemble (started : Bool)
  /-- The packet is assembled; its first unit is chosen by `PHASE` (30_encoding.md R82). -/
  | packet
  | codebook | lengths | lookup | huffBuild
  /-- Before the 6-bit count of a section. -/
  | count (k : Section)
  /-- Before time entry `t` of `n` (42_headers.md R177). -/
  | time (t n : Nat)
  | floor | residue | mapping | mode
  /-- Before the framing bit of the setup header (42_headers.md R183). -/
  | framing
  | window
  /-- Before the floor payload of channel `ch` (46_audio_packet.md R302). -/
  | floorPayload (ch : Nat)
  /-- The floor curves and the propagation (44_floor1.md R266, 46_audio_packet.md R303). -/
  | curves
  /-- Before the residue payload of submap `sm` (46_audio_packet.md R304). -/
  | residuePayload (sm : Nat)
  /-- Decoupling and spectrum (46_audio_packet.md R305, R307). -/
  | couple
  /-- Transform, window, overlap-add (47_synthesis.md R331). -/
  | synth
  /-- Emission of `OUTBUF` from sample `k` on (47_synthesis.md R330). -/
  | emit (k : Nat)
  deriving DecidableEq, Repr, Inhabited

/-- The page record (10_state.md R24). -/
structure PageRec where
  capture : BitVec 32
  version : BitVec 8
  htype : BitVec 8
  granule : BitVec 64
  serial : BitVec 32
  sequence : BitVec 32
  crc : BitVec 32
  nseg : BitVec 8
  seg : List Byte
  payload : List Byte
  deriving DecidableEq, Repr, Inhabited

/-! ### Configuration (10_state.md R27 to R32) -/

/-- The identification configuration and the comment counts (10_state.md R27). -/
structure IdConfig where
  channels : Nat
  rate : BitVec 32
  brMax : Int
  brNom : Int
  brMin : Int
  e0 : Nat
  e1 : Nat
  bs0 : Nat
  bs1 : Nat
  vendorLen : BitVec 32
  commentCount : BitVec 32
  deriving DecidableEq, Repr, Inhabited

/-- The Huffman node store of one codebook (43_codebook.md R224): every node of the tree is a prefix of a codeword;
`absent` is a child that is not there. -/
inductive HuffTree where
  | absent
  | leaf (entry : Nat)
  | node (left right : HuffTree)
  deriving DecidableEq, Repr, Inhabited

/-- A codebook (10_state.md R28). A length -1 and the codeword `NONE` of an unused entry are `none`. The last five
fields are held only by a book with lookup 1 or 2, and are 0 and empty otherwise. -/
structure Codebook where
  dims : Nat
  entries : Nat
  len : List (Option Nat)
  tree : HuffTree
  code : List (Option (List Bool))
  lookup : Nat
  lookupValues : Nat
  minimum : F32
  delta : F32
  valueBits : Nat
  seq : Bool
  mult : List Nat
  deriving DecidableEq, Repr, Inhabited

/-- One class of a floor (10_state.md R29). `master` is held only when `sub ≠ 0`; the book -1 is `none`. -/
structure FloorClass where
  dim : Nat
  sub : Nat
  master : Option Nat
  books : List (Option Nat)
  deriving DecidableEq, Repr, Inhabited

/-- A floor (10_state.md R29, 44_floor1.md R250 to R254). `maxClass` is -1 without partitions. -/
structure FloorConfig where
  type : Nat
  partitions : Nat
  partClass : List Nat
  maxClass : Int
  classes : List FloorClass
  multiplier : Nat
  rangebits : Nat
  xs : List Nat
  values : Nat
  deriving DecidableEq, Repr, Inhabited

/-- A residue (10_state.md R30). The book -1 is `none`. -/
structure ResidueConfig where
  type : ResType
  begin : Nat
  stop : Nat
  psize : Nat
  classifications : Nat
  classbook : Nat
  cascade : List Nat
  books : List (List (Option Nat))
  deriving DecidableEq, Repr, Inhabited

/-- A mapping (10_state.md R31). -/
structure MappingConfig where
  submaps : Nat
  couplingSteps : Nat
  mag : List Nat
  ang : List Nat
  mux : List Nat
  subFloor : List Nat
  subResidue : List Nat
  deriving DecidableEq, Repr, Inhabited

/-- A mode (10_state.md R32). -/
structure ModeConfig where
  blockflag : Bool
  windowtype : Nat
  transformtype : Nat
  mapping : Nat
  deriving DecidableEq, Repr, Inhabited

/-! ### Frame state, errors, warnings, counters (10_state.md R34 to R37) -/

/-- The per-frame buffers (10_state.md R34), with the staging `OUTF` of 47_synthesis.md R325 and the frame count
`L` of 47_synthesis.md R331. -/
structure Frame where
  mode : Nat
  blockflag : Bool
  n : Nat
  prevwin : Bool
  nextwin : Bool
  floorY : List (List Nat)
  floorFinalY : List (List Int)
  floorInt : List (List Int)
  floor : List (List F32)
  classif : List (List Nat)
  residue : List (List F32)
  spectrum : List (List F32)
  time : List (List F32)
  outf : List (List F32)
  outbuf : List Sample
  outLen : Nat
  deriving DecidableEq, Repr, Inhabited

/-- The error record (10_state.md R36). -/
structure ErrRec where
  cls : ErrClass
  code : BitVec 16
  index : BitVec 32
  packet : BitVec 32
  page : BitVec 32
  deriving DecidableEq, Repr, Inhabited

/-- The warning record (10_state.md R36). -/
structure WarnRec where
  any : Bool
  exhausted : Nat
  clamp : Nat
  deriving DecidableEq, Repr, Inhabited

/-- The counters and the last-page registers (10_state.md R37). -/
structure Counters where
  pagesAccepted : Nat
  packetsDone : Nat
  framesOut : Nat
  lastGranule : BitVec 64
  lastSerial : BitVec 32
  lastSequence : BitVec 32
  deriving DecidableEq, Repr, Inhabited

/-! ### Ports and host (10_state.md R38 to R53) -/

/-- One answer of the byte source (10_state.md R38). -/
inductive SrcAnswer where
  | byte (b : Byte)
  | eos
  | ioFail
  deriving DecidableEq, Repr, Inhabited

/-- One 32-bit host write that has arrived (20_memory.md R63). -/
structure HostWrite where
  addr : Nat
  value : Word
  deriving DecidableEq, Repr, Inhabited

/-- The state a host read sees: the registers that the host register file mirrors, as they stood at the last end of
a core step (10_state.md R52). -/
structure HostView where
  phase : Phase
  err : ErrRec
  warn : WarnRec
  cnt : Counters
  cfg : IdConfig
  deriving DecidableEq, Repr, Inhabited

/-- The state. The fields from `params` to `cnt` are the core's; `view` and `seq` are the model's own (log 1);
`src`, `hostQ`, `sinkRoom` and `out` lie outside the core (log 3). -/
structure State where
  params : Params
  phase : Phase
  seq : Seq
  srcPos : Nat
  pageValid : Bool
  segCursor : Nat
  payCursor : Nat
  pktBitpos : Nat
  packetNo : Nat
  pg : PageRec
  pkt : List Byte
  pktContinuing : Bool
  noResidue : List Bool
  floorUnused : List Bool
  floorUsed : List (List Bool)
  cfg : IdConfig
  nCodebooks : Nat
  nFloors : Nat
  nResidues : Nat
  nMappings : Nat
  nModes : Nat
  codebooks : List Codebook
  floors : List FloorConfig
  residues : List ResidueConfig
  mappings : List MappingConfig
  modes : List ModeConfig
  frame : Frame
  carry : List (List F32)
  prevN : Nat
  err : ErrRec
  warn : WarnRec
  cnt : Counters
  view : HostView
  src : List SrcAnswer
  hostQ : List HostWrite
  sinkRoom : Option Nat
  out : List Sample
  deriving DecidableEq, Repr, Inhabited

/-! ### Reset values (70_reset_and_hazards.md R381) -/

/-- The empty page record. -/
def PageRec.empty : PageRec :=
  { capture := 0, version := 0, htype := 0, granule := 0, serial := 0, sequence := 0, crc := 0, nseg := 0,
    seg := [], payload := [] }

/-- The absent configuration. -/
def IdConfig.absent : IdConfig :=
  { channels := 0, rate := 0, brMax := 0, brNom := 0, brMin := 0, e0 := 0, e1 := 0, bs0 := 0, bs1 := 0,
    vendorLen := 0, commentCount := 0 }

/-- Empty frame buffers (10_state.md R34: unspecified and never read before written; log 8). -/
def Frame.empty : Frame :=
  { mode := 0, blockflag := false, n := 0, prevwin := false, nextwin := false, floorY := [], floorFinalY := [],
    floorInt := [], floor := [], classif := [], residue := [], spectrum := [], time := [], outf := [],
    outbuf := [], outLen := 0 }

/-- No error. -/
def ErrRec.clear : ErrRec := { cls := .none, code := 0, index := 0, packet := 0, page := 0 }

/-- No warning. -/
def WarnRec.clear : WarnRec := { any := false, exhausted := 0, clamp := 0 }

/-- Counters at 0. -/
def Counters.clear : Counters :=
  { pagesAccepted := 0, packetsDone := 0, framesOut := 0, lastGranule := 0, lastSerial := 0, lastSequence := 0 }

/-- What a host read sees after reset: every register 0. -/
def HostView.clear : HostView :=
  { phase := .idle, err := .clear, warn := .clear, cnt := .clear, cfg := .absent }

/-- The machine right after reset (70_reset_and_hazards.md R381), with no answer of the source and no host write
arrived, a sink that never stalls, and nothing emitted. -/
def State.reset : State :=
  { params := defaultParams
    phase := .idle
    seq := .boundary
    srcPos := 0
    pageValid := false
    segCursor := 0
    payCursor := 0
    pktBitpos := 0
    packetNo := 0
    pg := .empty
    pkt := []
    pktContinuing := false
    noResidue := []
    floorUnused := []
    floorUsed := []
    cfg := .absent
    nCodebooks := 0
    nFloors := 0
    nResidues := 0
    nMappings := 0
    nModes := 0
    codebooks := []
    floors := []
    residues := []
    mappings := []
    modes := []
    frame := .empty
    carry := []
    prevN := 0
    err := .clear
    warn := .clear
    cnt := .clear
    view := .clear
    src := []
    hostQ := []
    sinkRoom := none
    out := [] }

/-! ### Plain carriers of the operations -/

/-- The bit reader (41_bitreader.md R150): the packet, the bit cursor, and how many warnings of each kind the
reads so far have raised. -/
structure Reader where
  bytes : List Byte
  pos : Nat
  exhausted : Nat
  clamped : Nat
  deriving DecidableEq, Repr, Inhabited

/-- What an operation that reads the packet answers: a value and the reader after it; a fatal error with its cause
and index and the reader at the failing point; or a model fault. -/
inductive Got (α : Type) where
  | ok (a : α) (r : Reader)
  | bad (c : ErrCode) (index : Nat) (r : Reader)
  | stuck (f : Fault)
  deriving DecidableEq, Repr

/-- A configuration unit under decode: the reader, the entry as far as it is written, and the first failed check
(30_encoding.md R97), if any. -/
structure Part (α : Type) where
  rd : Reader
  val : α
  err : Option ErrCode
  deriving DecidableEq, Repr

end Sys2Proof.Machine
end

