-- ==== Sys2Proof/Machine/Ops.lean ====
section
/-! DEFINITION. The named operations over registers and buffers that every meaning is written from: the bit reader
(41_bitreader.md), the warning (60_exceptions.md R354), TAKING THE ABORT (60_exceptions.md R351), the completion of a
packet (40_ogg_demuxer.md R131), the byte source (10_state.md R38), and reset (70_reset_and_hazards.md R380). -/

namespace Sys2Proof.Machine

open Sys2Proof

/-- Write the elements `0 .. new.length - 1` of a buffer, and no other. -/
def overwrite {α : Type} (new old : List α) : List α := new ++ old.drop new.length

/-! ### The bit reader -/

/-- Bit `p` of a packet: bit `p mod 8` of byte `p >> 3`, and 0 past the end (41_bitreader.md R150, R154). -/
def packetBit (bytes : List Byte) (p : Nat) : Bool := (bytes.getD (p / 8) 0).getLsbD (p % 8)

/-- The `n`-bit field at bit position `p`, LSB first (20_memory.md R64). -/
def packetField (bytes : List Byte) : Nat → Nat → Nat
  | 0, _ => 0
  | n + 1, p => (packetBit bytes p).toNat + 2 * packetField bytes n (p + 1)

/-- The bits of the packet not yet read. -/
def Reader.avail (r : Reader) : Nat := 8 * r.bytes.length - r.pos

/-- `read_bits(n)` (41_bitreader.md R151 to R154): clamp to 32 with a warning; a 0-bit read is empty; the cursor
stops at the packet's end, with at most one warning for the call. The cursor is a number without a bound of its own: it
fits the u35 of 10_state.md R23 when the packet is shorter than 2^32 bytes (log 30, DESIGN CHOICE). -/
def Reader.readBits (n : Nat) (r : Reader) : Nat × Reader :=
  let k := min n 32
  (packetField r.bytes k r.pos,
   { r with
     pos := r.pos + min k r.avail
     exhausted := r.exhausted + (if r.avail < k then 1 else 0)
     clamped := r.clamped + (if 32 < n then 1 else 0) })

/-- The reader after `read_bits(n)`, for a field whose value the instruction already holds. -/
def Reader.skip (n : Nat) (r : Reader) : Reader := (r.readBits n).2

/-- The reader after fields of these widths, in order. -/
def Reader.skips (ws : List Nat) (r : Reader) : Reader := ws.foldl (fun r w => r.skip w) r

/-- The reader after `k` fields of `w` bits each, one field at a time. -/
def Reader.skipEach (w : Nat) : Nat → Reader → Reader
  | 0, r => r
  | k + 1, r => Reader.skipEach w k (r.skip w)

/-- The reader after `k` fields of `w` bits (1..32) each, as ONE cursor move (42_headers.md R175 allows it): the
fields that fit move the cursor, and each of the others warns. -/
def Reader.discard (w k : Nat) (r : Reader) : Reader :=
  let full := r.avail / w
  if k ≤ full then { r with pos := r.pos + w * k }
  else { r with pos := r.pos + r.avail, exhausted := r.exhausted + (k - full) }

/-- What is left of the packet, as bits in stream order; the decoder reads from here. -/
def Reader.rest (r : Reader) : List Bool := (bitsOfBytes r.bytes).drop r.pos

/-- Sequence two operations on the packet. -/
def Got.bind {α β : Type} (x : Got α) (f : α → Reader → Got β) : Got β :=
  match x with
  | .ok a r => f a r
  | .bad c i r => .bad c i r
  | .stuck f => .stuck f

/-- Go on with a configuration unit unless a check has failed. -/
def Part.next {α : Type} (p : Part α) (f : Reader → α → Part α) : Part α :=
  match p.err with
  | some _ => p
  | none => f p.rd p.val

/-- One field of a configuration unit: read `w` bits, write, then check (60_exceptions.md R353). -/
def Part.field {α : Type} (p : Part α) (w : Nat) (write : α → α) (check : Option ErrCode) : Part α :=
  p.next (fun r a => { rd := r.skip w, val := write a, err := check })

/-- A check: the code it raises when it fails. -/
def checkThat (ok : Bool) (c : ErrCode) : Option ErrCode := if ok then none else some c

/-- The reader at the state's bit cursor. -/
def State.reader (s : State) : Reader := { bytes := s.pkt, pos := s.pktBitpos, exhausted := 0, clamped := 0 }

/-- `warn` for `e` exhaustion and `c` clamp events (60_exceptions.md R354). -/
def WarnRec.add (w : WarnRec) (e c : Nat) : WarnRec :=
  { any := w.any || decide (0 < e) || decide (0 < c)
    exhausted := satAdd 32 w.exhausted e
    clamp := satAdd 32 w.clamp c }

/-- The state after the reads of a reader: the cursor moved, the warnings recorded. -/
def State.withReader (s : State) (r : Reader) : State :=
  { s with pktBitpos := r.pos, warn := s.warn.add r.exhausted r.clamped }

/-- The state after fields of these widths. -/
def State.skips (s : State) (ws : List Nat) : State := s.withReader (s.reader.skips ws)

/-! ### What the host sees -/

/-- The mirrored registers as they stand (10_state.md R40). -/
def State.mirror (s : State) : HostView :=
  { phase := s.phase, err := s.err, warn := s.warn, cnt := s.cnt, cfg := s.cfg }

/-- Make the registers as they stand visible to host reads: the end of a core step (10_state.md R52). -/
def State.publish (s : State) : State := { s with view := s.mirror }

/-! ### The abort (60_exceptions.md R351) -/

/-- `raise`: the five registers it saves, and `PHASE = ERROR`; every other register stays. -/
def State.raise (s : State) (c : ErrCode) (index : Nat) : State :=
  { s with
    err :=
      { cls := c.cls
        code := BitVec.ofNat 16 c.number
        index := BitVec.ofNat 32 index
        packet := BitVec.ofNat 32 s.packetNo
        page := BitVec.ofNat 32 s.cnt.pagesAccepted }
    phase := .error }.publish

/-- The outcome of an abort: a next state. -/
def abort (s : State) (c : ErrCode) (index : Nat) : Host.Outcome State Fault Refusal := .next (s.raise c index)

/-- End an operation on the packet: go on with its value, abort, or fault. -/
def Got.finish {α : Type} (g : Got α) (s : State) (f : α → State → Host.Outcome State Fault Refusal) :
    Host.Outcome State Fault Refusal :=
  match g with
  | .ok a r => f a (s.withReader r)
  | .bad c i r => abort (s.withReader r) c i
  | .stuck f => .fault f

/-! ### Packet completion and the end of the stream -/

/-- `complete_packet` (40_ogg_demuxer.md R131), which ends the core step (42_headers.md R170). -/
def completePacket (s : State) : Host.Outcome State Fault Refusal :=
  if 2 ^ 32 ≤ s.packetNo + 1 then .refused .packetNoWidth
  else
    .next { s with
      cnt := { s.cnt with packetsDone := satAdd 32 s.cnt.packetsDone 1 }
      packetNo := s.packetNo + 1
      seq := .boundary }.publish

/-- `end_of_stream` (40_ogg_demuxer.md R128): `DONE` in `AUDIO`, else the headers are incomplete. -/
def endOfStream (s : State) : Host.Outcome State Fault Refusal :=
  if s.phase = .audio then .next { s with phase := .done, seq := .boundary }.publish
  else abort s .streamTruncated s.packetNo

/-! ### The byte source (10_state.md R38) -/

/-- The bytes that the source has answered, up to its first other answer. -/
def srcBytes : List SrcAnswer → List Byte
  | .byte b :: rest => b :: srcBytes rest
  | _ => []

/-- `k` successful takes: `SRC_POS` grows by one for each. -/
def State.takeSrc (s : State) (k : Nat) : State := { s with srcPos := s.srcPos + k, src := s.src.drop k }

/-! ### Reset (70_reset_and_hazards.md R380) -/

/-- Reset every piece of the core's state; the parameters, the source, the sink and the arrived host writes lie
outside the core and stay (70_reset_and_hazards.md R381). -/
def softReset (s : State) : State :=
  { State.reset with
    params := s.params, src := s.src, hostQ := s.hostQ, sinkRoom := s.sinkRoom, out := s.out }

end Sys2Proof.Machine
end

