-- ==== Sys2Proof/Machine/Huffman.lean ====
section
/-! DEFINITION. Canonical Huffman codes (43_codebook.md R222 to R225) and VQ lookup (43_codebook.md R226, R227). The
placement is the source's own description, the leftmost free position at the depth of the length, on the node
store of 43_codebook.md R224; 43_codebook.md R222 derives that it is the least free codeword. -/

namespace Sys2Proof.Machine

open Sys2Proof

/-- Put entry `e` at the leftmost free position `depth` levels down (43_codebook.md R222); the codeword of that
position, or nothing when no position is free. -/
def HuffTree.insert (e : Nat) : Nat → HuffTree → Option (HuffTree × List Bool)
  | 0, .absent => some (.leaf e, [])
  | 0, .leaf _ => none
  | 0, .node _ _ => none
  | _ + 1, .leaf _ => none
  | k + 1, .absent =>
    match HuffTree.insert e k .absent with
    | some p => some (.node p.1 .absent, false :: p.2)
    | none => none
  | k + 1, .node l r =>
    match HuffTree.insert e k l with
    | some p => some (.node p.1 r, false :: p.2)
    | none =>
      match HuffTree.insert e k r with
      | some p => some (.node l p.1, true :: p.2)
      | none => none

/-- The number of nodes of a tree (43_codebook.md R224). -/
def HuffTree.nodeCount : HuffTree → Nat
  | .absent => 0
  | .leaf _ => 1
  | .node l r => 1 + l.nodeCount + r.nodeCount

/-- The tree of a book without codewords: a root with no children (43_codebook.md R224). -/
def HuffTree.root : HuffTree := .node .absent .absent

/-- The placement of a list of lengths: the tree, the codewords given so far, and whether every used entry found
a place. -/
structure Placed where
  tree : HuffTree
  code : List (Option (List Bool))
  complete : Bool
  deriving DecidableEq, Repr

/-- `huff_build`'s loop from entry `e` on (43_codebook.md R222): entries in increasing order, unused ones skipped. -/
def placeCodes : Nat → HuffTree → List (Option Nat) → Placed
  | _, t, [] => { tree := t, code := [], complete := true }
  | e, t, none :: ls =>
    let p := placeCodes (e + 1) t ls
    { p with code := none :: p.code }
  | e, t, some len :: ls =>
    match t.insert e len with
    | none => { tree := t, code := [], complete := false }
    | some x =>
      let p := placeCodes (e + 1) x.1 ls
      { p with code := some x.2 :: p.code }

/-- Walk the tree, one bit read at a time, left on 0 and right on 1, to a leaf (43_codebook.md R225). -/
def HuffTree.walk (b : Nat) : HuffTree → Reader → Got Nat
  | .absent, r => .bad .huffInvalid b r
  | .leaf e, r => .ok e r
  | .node l g, r => if (r.readBits 1).1 = 1 then g.walk b (r.skip 1) else l.walk b (r.skip 1)

/-- `huff_decode(b)` (43_codebook.md R225). -/
def huffDecode (books : List Codebook) (b : Nat) (r : Reader) : Got Nat :=
  match books[b]? with
  | none => .stuck .configAbsent
  | some book => book.tree.walk b r

/-- The multiplicand offset of dimension `i` of entry `e` (43_codebook.md R226). -/
def vqOffset (book : Codebook) (e i : Nat) : Nat :=
  if book.lookup = 1 then e / book.lookupValues ^ i % book.lookupValues else e * book.dims + i

/-- One dimension's value (43_codebook.md R226). -/
def vqValue (book : Codebook) (m : Nat) (last : F32) : F32 :=
  F32.add (F32.add (F32.mul (F32.ofNat m) book.delta) book.minimum) last

/-- `vq_vector` from dimension `i` on, `k` dimensions, with the carry `last` (43_codebook.md R226). -/
def vqVectorFrom (book : Codebook) (e : Nat) : Nat → Nat → F32 → Option (List F32)
  | 0, _, _ => some []
  | k + 1, i, last =>
    match book.mult[vqOffset book e i]? with
    | none => none
    | some m =>
      let v := vqValue book m last
      (vqVectorFrom book e k (i + 1) (if book.seq then v else last)).map (fun vs => v :: vs)

/-- `vq_vector(b, e)` (43_codebook.md R226); nothing when an offset lies outside the multiplicands. -/
def vqVector (book : Codebook) (e : Nat) : Option (List F32) := vqVectorFrom book e book.dims 0 F32.zero

/-- The checks of `vq_decode`, before any bit is read (43_codebook.md R227, 45_residue.md R288). -/
def vqCheck (books : List Codebook) (b : Nat) (r : Reader) : Got Codebook :=
  match books[b]? with
  | none => .stuck .configAbsent
  | some book =>
    if book.lookup = 0 then .bad .cbNoVq b r
    else if book.dims = 0 then .bad .cbZeroDim b r
    else .ok book r

/-- `vq_decode(b)` (43_codebook.md R227). -/
def vqDecode (books : List Codebook) (b : Nat) (r : Reader) : Got (List F32) :=
  (vqCheck books b r).bind fun book r =>
    (huffDecode books b r).bind fun e r =>
      match vqVector book e with
      | none => .stuck .bufferBounds
      | some v => .ok v r

end Sys2Proof.Machine
end

