-- ==== Sys2Proof/Machine/Codebook.lean ====
section
/-! DEFINITION. The meanings of the codebook units of the setup header (43_codebook.md R210 to R215) and the
internal operation `huff_build` (43_codebook.md R222, R224). The book under decode is the last of the table. -/

namespace Sys2Proof.Machine

open Sys2Proof

/-- The index of the codebook under decode. -/
def State.bookIndex (s : State) : Nat := s.codebooks.length - 1

/-- The codebook under decode. -/
def State.book (s : State) : Option Codebook := s.codebooks[s.bookIndex]?

/-- Write fields of the codebook under decode. -/
def State.modifyBook (s : State) (f : Codebook → Codebook) : State :=
  { s with codebooks := modifyAt s.codebooks s.bookIndex f }

/-- A codebook of which only the head is read. -/
def Codebook.fresh (dims entries : Nat) : Codebook :=
  { dims := dims, entries := entries, len := [], tree := .absent, code := [], lookup := 0, lookupValues := 0,
    minimum := F32.zero, delta := F32.zero, valueBits := 0, seq := false, mult := [] }

/-- CODEBOOK: `decode_codebook` up to its length list (43_codebook.md R210). -/
def execCodebook (dims : BitVec 16) (entries : BitVec 24) (s : State) : Host.Outcome State Fault Refusal :=
  .next { s.skips [24, 16, 24] with
    codebooks := s.codebooks ++ [Codebook.fresh dims.toNat entries.toNat]
    seq := .lengths }

/-- CB_LEN_DENSE: `lengths_dense` (43_codebook.md R211). -/
def execCbLenDense (lens : List (BitVec 5)) (s : State) : Host.Outcome State Fault Refusal :=
  let t := s.withReader ((s.reader.skips [1, 1]).skipEach 5 lens.length)
  .next { t.modifyBook (fun b => { b with len := lens.map (fun v => some (plusOne v)) }) with seq := .lookup }

/-- The reads of a sparse length list (43_codebook.md R212). -/
def sparseReads (lens : List (Option (BitVec 5))) (r : Reader) : Reader :=
  lens.foldl (fun r v => if v.isSome then r.skips [1, 5] else r.skip 1) r

/-- CB_LEN_SPARSE: `lengths_sparse` (43_codebook.md R212). -/
def execCbLenSparse (lens : List (Option (BitVec 5))) (s : State) : Host.Outcome State Fault Refusal :=
  let t := s.withReader (sparseReads lens (s.reader.skips [1, 1]))
  .next { t.modifyBook (fun b => { b with len := lens.map (Option.map plusOne) }) with seq := .lookup }

/-- The loop of `lengths_ordered` over its run counts (43_codebook.md R214): `len` are the lengths assigned so far
and `l` the current length. -/
def orderedLoop (entries : Nat) : List Nat → Nat → Reader → List (Option Nat) → Part (List (Option Nat))
  | [], _, r, len => { rd := r, val := len, err := checkThat (decide (entries ≤ len.length)) .cbOrdered }
  | c :: cs, l, r, len =>
    if entries ≤ len.length then { rd := r, val := len, err := none }
    else if 32 < l then { rd := r, val := len, err := some .cbOrdered }
    else
      let r' := r.skip (countWidth entries len.length)
      if entries < len.length + c then { rd := r', val := len, err := some .cbOrdered }
      else orderedLoop entries cs (l + 1) r' (len ++ List.replicate c (some l))

/-- CB_LEN_ORDERED: `lengths_ordered` (43_codebook.md R214). -/
def execCbLenOrdered (initM1 : BitVec 5) (counts : List Nat) (s : State) : Host.Outcome State Fault Refusal :=
  match s.book with
  | none => .fault .configAbsent
  | some book =>
    let p := orderedLoop book.entries counts (plusOne initM1) (s.reader.skips [1, 5]) []
    let t := (s.withReader p.rd).modifyBook (fun b => { b with len := p.val })
    match p.err with
    | some c => abort t c s.bookIndex
    | none => .next { t with seq := .lookup }

/-- CB_LOOKUP0: `decode_lookup` of type 0 (43_codebook.md R215). -/
def execCbLookup0 (s : State) : Host.Outcome State Fault Refusal :=
  .next { (s.skips [4]).modifyBook (fun b => { b with lookup := 0 }) with seq := .huffBuild }

/-- The multiplicands stored so far, all codebooks together (43_codebook.md R215). -/
def State.multStored (s : State) : Nat := total (s.codebooks.map (fun b => b.mult.length))

/-- The fields of a lookup of type `t` up to its sequence flag (43_codebook.md R215). -/
def vqHead (t : Nat) (f : VqFields) (b : Codebook) : Codebook :=
  { b with
    lookup := t
    minimum := float32Unpack f.minimum
    delta := float32Unpack f.delta
    valueBits := plusOne f.valueBitsM1
    seq := f.seq }

/-- `decode_lookup` of type 1 or 2 (43_codebook.md R215): the head, the two checks, then the multiplicands. -/
def lookupVq (t : Nat) (f : VqFields) (s : State) : Host.Outcome State Fault Refusal :=
  match s.book with
  | none => .fault .configAbsent
  | some book =>
    let r := s.reader.skips [4, 32, 32, 4, 1]
    let lv := lookupValueCount t book.entries book.dims
    if t = 1 ∧ book.dims = 0 then
      abort ((s.withReader r).modifyBook (vqHead t f)) .cbLookup1Dim0 s.bookIndex
    else if s.params.maxMultiplicands < s.multStored + lv then
      abort ((s.withReader r).modifyBook (vqHead t f)) .capacity 3
    else
      let t' := s.withReader (r.skipEach (plusOne f.valueBitsM1) f.mult.length)
      .next { t'.modifyBook (fun b => { vqHead t f b with lookupValues := lv, mult := f.mult }) with
        seq := .huffBuild }

/-- CB_LOOKUP1 (43_codebook.md R215). -/
def execCbLookup1 (f : VqFields) (s : State) : Host.Outcome State Fault Refusal := lookupVq 1 f s

/-- CB_LOOKUP2 (43_codebook.md R215). -/
def execCbLookup2 (f : VqFields) (s : State) : Host.Outcome State Fault Refusal := lookupVq 2 f s

/-- The Huffman nodes of all codebooks together (43_codebook.md R224). -/
def huffNodes (books : List Codebook) : Nat := total (books.map (fun b => b.tree.nodeCount))

/-- Where the sequencer goes after a codebook (42_headers.md R176). -/
def State.afterBook (s : State) : Seq := if s.codebooks.length < s.nCodebooks then .codebook else .count .time

/-- `huff_build` (43_codebook.md R222, R224): place the codewords, then store the nodes. -/
def huffBuild (s : State) : Host.Outcome State Fault Refusal :=
  match s.book with
  | none => .fault .configAbsent
  | some book =>
    let p := placeCodes 0 HuffTree.root book.len
    let coded := s.modifyBook (fun b => { b with code := p.code })
    let stored := s.modifyBook (fun b => { b with code := p.code, tree := p.tree })
    if p.complete = false then abort coded .cbOverspec s.bookIndex
    else if s.params.maxHuffNodes < huffNodes stored.codebooks then abort coded .capacity 2
    else .next { stored with seq := s.afterBook }

end Sys2Proof.Machine
end

