-- ==== Sys2Proof/Machine/Headers.lean ====
section
/-! DEFINITION. The meanings of the three header packets and of the time, mapping and mode units of the setup header
(42_headers.md R171 to R183), and the sequencer's own reads there: the section counts and the last framing bit
(42_headers.md R176, R183). Every check raises right after its field (60_exceptions.md R353). -/

namespace Sys2Proof.Machine

open Sys2Proof

/-- The field widths of a header prefix: the type byte and six magic bytes (42_headers.md R171). -/
def prefixWidths : List Nat := List.replicate 7 8

/-! ### Identification header -/

/-- `check_blocksizes` (42_headers.md R173): the index of the first failing check. -/
def checkBlocksizes (e0 e1 : Nat) : Option Nat :=
  if e0 < 8 ∨ 13 < e0 then some 0
  else if e1 < 8 ∨ 13 < e1 then some 1
  else if e1 < e0 then some 2
  else none

/-- `commit_id` (42_headers.md R174). -/
def commitId (f : IdFields) (s : State) : State :=
  { s with
    cfg :=
      { s.cfg with
        channels := f.channels.toNat
        rate := f.rate
        brMax := signed32 f.brMax
        brNom := signed32 f.brNom
        brMin := signed32 f.brMin
        e0 := f.e0.toNat
        e1 := f.e1.toNat
        bs0 := powerOfTwo f.e0
        bs1 := powerOfTwo f.e1 } }

/-- ID_HDR: `decode_id` (42_headers.md R172), then the next phase and the packet's completion (42_headers.md R170). -/
def execIdHdr (f : IdFields) (s : State) : Host.Outcome State Fault Refusal :=
  let a := s.skips (prefixWidths ++ [32])
  if f.version ≠ 0 then abort a .idVersion 0
  else
    let b := a.skips [8]
    if f.channels = 0 then abort b .idChannels 0
    else
      let c := b.skips [32]
      if f.rate = 0 then abort c .idRate 0
      else
        let d := c.skips [32, 32, 32, 4, 4]
        match checkBlocksizes f.e0.toNat f.e1.toNat with
        | some k => abort d .idBlocksize k
        | none =>
          let e := d.skips [1]
          if f.framing = false then abort e .hdrFraming 0
          else completePacket { commitId f e with phase := .hdrComment }

/-! ### Comment header -/

/-- The reads of one user comment: its length, then its bytes, discarded (42_headers.md R175). -/
def commentReads (c : Comment) (r : Reader) : Reader := (r.skip 32).discard 8 c.len.toNat

/-- The reads of the comment header up to its framing bit (42_headers.md R175). A comment that the packet does not
hold is one 32-bit read past its end, which gives the length 0. -/
def commentHdrReads (f : CommentFields) (r : Reader) : Reader :=
  let vendor := ((r.skips prefixWidths).skip 32).discard 8 f.vendorLen.toNat
  let held := f.comments.foldl (fun r c => commentReads c r) (vendor.skip 32)
  held.discard 32 (f.count.toNat - f.comments.length)

/-- COMMENT_HDR: `decode_comment` (42_headers.md R175), then the next phase and the packet's completion. -/
def execCommentHdr (f : CommentFields) (s : State) : Host.Outcome State Fault Refusal :=
  let t := s.withReader ((commentHdrReads f s.reader).skip 1)
  if f.framing = false then abort t .hdrFraming 1
  else
    completePacket { t with
      cfg := { t.cfg with vendorLen := f.vendorLen, commentCount := f.count }
      phase := .hdrSetup }

/-! ### Setup header -/

/-- SETUP_HDR: `decode_setup` up to its first codebook (42_headers.md R176). -/
def execSetupHdr (codebookCountM1 : BitVec 8) (s : State) : Host.Outcome State Fault Refusal :=
  .next { s.skips (prefixWidths ++ [8]) with nCodebooks := plusOne codebookCountM1, seq := .codebook }

/-- A section's 6-bit count, plus one, and the first unit of the section (42_headers.md R176, R177). -/
def openSection (k : Section) (s : State) : Host.Outcome State Fault Refusal :=
  let n := (s.reader.readBits 6).1 + 1
  let t := s.skips [6]
  match k with
  | .time => .next { t with seq := .time 0 n }
  | .floor => .next { t with nFloors := n, seq := .floor }
  | .residue => .next { t with nResidues := n, seq := .residue }
  | .mapping => .next { t with nMappings := n, seq := .mapping }
  | .mode => .next { t with nModes := n, seq := .mode }

/-- The framing bit after the last mode, and the end of the setup header (42_headers.md R176, R183, R185). -/
def setupFraming (s : State) : Host.Outcome State Fault Refusal :=
  let t := s.skips [1]
  if (s.reader.readBits 1).1 = 1 then completePacket { t with phase := .audio }
  else abort t .hdrFraming 2

/-- Where the sequencer goes after a time entry (42_headers.md R177). -/
def Seq.afterTime : Seq → Seq
  | .time t n => if t + 1 < n then .time (t + 1) n else .count .floor
  | _ => .count .floor

/-- TIME_ENTRY: one pass of `decode_time` (42_headers.md R177). Nothing is stored. -/
def execTimeEntry (s : State) : Host.Outcome State Fault Refusal :=
  .next { s.skips [16] with seq := s.seq.afterTime }

/-! ### Mappings -/

/-- A mapping of which nothing is read. -/
def MappingConfig.fresh : MappingConfig :=
  { submaps := 0, couplingSteps := 0, mag := [], ang := [], mux := [], subFloor := [], subResidue := [] }

/-- The submap count (42_headers.md R178). -/
def mapSubmaps (v : Option (BitVec 4)) (p : Part MappingConfig) : Part MappingConfig :=
  p.next fun r m =>
    { rd := if v.isSome then r.skips [1, 4] else r.skip 1, val := { m with submaps := submapCount v }, err := none }

/-- One coupling step; both checks come after the angle (42_headers.md R179). -/
def mapStep (channels : Nat) (p : Part MappingConfig) (st : Nat × Nat) : Part MappingConfig :=
  p.next fun r m =>
    let r' := r.skips [couplingWidth channels, couplingWidth channels]
    if st.1 = st.2 ∨ channels ≤ st.1 ∨ channels ≤ st.2 then { rd := r', val := m, err := some .mapCoupling }
    else { rd := r', val := { m with mag := m.mag ++ [st.1], ang := m.ang ++ [st.2] }, err := none }

/-- `decode_coupling` (42_headers.md R179). -/
def mapCoupling (channels : Nat) (c : Option (List (Nat × Nat))) (p : Part MappingConfig) : Part MappingConfig :=
  match c with
  | none => p.next fun r m => { rd := r.skip 1, val := { m with couplingSteps := 0 }, err := none }
  | some steps =>
    steps.foldl (mapStep channels)
      (p.next fun r m => { rd := r.skips [1, 8], val := { m with couplingSteps := steps.length }, err := none })

/-- `decode_mux` (42_headers.md R180). -/
def mapMux (channels : Nat) (reserved : BitVec 2) (mux : List (BitVec 4)) (p : Part MappingConfig) :
    Part MappingConfig :=
  (p.field 2 id (checkThat (reserved == 0) .mapReserved)).next fun r m =>
    if 1 < m.submaps then
      mux.foldl
        (fun q v =>
          q.field 4 (fun m => { m with mux := m.mux ++ [v.toNat] }) (checkThat (decide (v.toNat < m.submaps)) .mapMux))
        { rd := r, val := m, err := none }
    else { rd := r, val := { m with mux := List.replicate channels 0 }, err := none }

/-- One submap: the two indices are stored when both are in range (42_headers.md R181). -/
def mapSub (nFloors nResidues : Nat) (p : Part MappingConfig) (sm : SubmapFields) : Part MappingConfig :=
  (((p.field 8 id none).field 8 id (checkThat (decide (sm.floor.toNat < nFloors)) .mapFloor)).field 8 id
    (checkThat (decide (sm.residue.toNat < nResidues)) .mapResidue)).next fun r m =>
      { rd := r
        val := { m with
          subFloor := m.subFloor ++ [sm.floor.toNat]
          subResidue := m.subResidue ++ [sm.residue.toNat] }
        err := none }

/-- `decode_mapping` (42_headers.md R178 to R181). -/
def decodeMapping (channels nFloors nResidues : Nat) (f : MapFields) (r : Reader) : Part MappingConfig :=
  let p : Part MappingConfig := { rd := r.skip 16, val := .fresh, err := none }
  f.subs.foldl (mapSub nFloors nResidues)
    (mapMux channels f.reserved f.mux (mapCoupling channels f.coupling (mapSubmaps f.submapsM1 p)))

/-- MAP0 (42_headers.md R178). -/
def execMap0 (f : MapFields) (s : State) : Host.Outcome State Fault Refusal :=
  let p := decodeMapping s.cfg.channels s.nFloors s.nResidues f s.reader
  let t := { s.withReader p.rd with mappings := s.mappings ++ [p.val] }
  match p.err with
  | some c => abort t c s.mappings.length
  | none => .next { t with seq := if s.mappings.length + 1 < s.nMappings then .mapping else .count .mode }

/-! ### Modes -/

/-- MODE (42_headers.md R182); the two type fields are its selector, already known to be 0. -/
def execMode (blockflag : Bool) (mapping : BitVec 8) (s : State) : Host.Outcome State Fault Refusal :=
  let t := s.skips [1, 16, 16, 8]
  let entry (m : Nat) : ModeConfig := { blockflag := blockflag, windowtype := 0, transformtype := 0, mapping := m }
  if s.nMappings ≤ mapping.toNat then abort { t with modes := s.modes ++ [entry 0] } .modeMapping s.modes.length
  else
    .next { t with
      modes := s.modes ++ [entry mapping.toNat]
      seq := if s.modes.length + 1 < s.nModes then .mode else .framing }

end Sys2Proof.Machine
end

