-- ==== Sys2Proof/Machine/Flags.lean ====
section
/-! DEFINITION. The flags of the core (10_state.md R26), the phase number (10_state.md R21) and the status word a
host reads (10_state.md R42). No arithmetic step writes a flag as a side effect (10_state.md R26). -/

namespace Sys2Proof.Machine

open Sys2Proof

/-- The value of `PHASE` (10_state.md R21). -/
def Phase.number : Phase → Nat
  | .idle => 0 | .hdrId => 1 | .hdrComment => 2 | .hdrSetup => 3 | .audio => 4 | .done => 5 | .error => 6

/-- `STATUS.BUSY`: the phases in which the core takes steps (10_state.md R42, 42_headers.md R170). -/
def Phase.busy : Phase → Bool
  | .hdrId => true | .hdrComment => true | .hdrSetup => true | .audio => true
  | .idle => false | .done => false | .error => false

/-- The `STATUS` word (10_state.md R42). -/
def statusNat (v : HostView) : Nat :=
  v.phase.number + 2 ^ 4 * v.phase.busy.toNat + 2 ^ 5 * (decide (v.phase = .error)).toNat
    + 2 ^ 6 * (decide (v.phase = .done)).toNat + 2 ^ 7 * v.warn.any.toNat + 2 ^ 8 * v.err.cls.number

/-- The start of a frame (10_state.md R26): `NO_RESIDUE` and `FLOOR_UNUSED` of every channel at 0. `FLOOR_USED` is not
cleared here, every channel has a row for it. WHERE a frame starts is the model's choice (log 29, DESIGN CHOICE): after the
checks of the packet's head, so that E_AUDIO_TYPE and E_AUDIO_MODE leave the flags of the frame before. -/
def State.clearFrameFlags (s : State) : State :=
  { s with
    noResidue := List.replicate s.cfg.channels false
    floorUnused := List.replicate s.cfg.channels false
    floorUsed := s.floorUsed ++ List.replicate (s.cfg.channels - s.floorUsed.length) [] }

/-- The flags of channel `ch` after its presence bit (44_floor1.md R255): unused and without residue, or neither. -/
def State.markFloor (s : State) (ch : Nat) (unused : Bool) : State :=
  { s with
    noResidue := s.noResidue.set ch unused
    floorUnused := s.floorUnused.set ch unused
    floorUsed := if unused then s.floorUsed.set ch [] else s.floorUsed }

/-- One step of the propagation: a pair in which either channel has residue gives it to both
(46_audio_packet.md R303). -/
def propagateStep (flags : List Bool) (m a : Nat) : List Bool :=
  if flags.getD m false = false ∨ flags.getD a false = false then (flags.set m false).set a false else flags

/-- The propagation over the coupling steps in increasing order (46_audio_packet.md R303). -/
def propagate (steps : List (Nat × Nat)) (flags : List Bool) : List Bool :=
  steps.foldl (fun fl p => propagateStep fl p.1 p.2) flags

end Sys2Proof.Machine
end

