-- ==== Sys2Proof/Machine/HostPort.lean ====
section
/-! DEFINITION. The host register file (10_state.md R40 to R53): reads of the mirrored registers, and the two acts of
`CTRL`. -/

namespace Sys2Proof.Machine

open Sys2Proof

/-- The low and the high word of a 64-bit value. -/
def loWord (v : BitVec 64) : Word := v.extractLsb' 0 32

/-- See `loWord`. -/
def hiWord (v : BitVec 64) : Word := v.extractLsb' 32 32

/-- The register at a byte offset (10_state.md R40 to R51); an offset not listed reads 0. -/
def regAt (v : HostView) (offset : Nat) : Word :=
  match offset with
  | 0x00 => 0
  | 0x04 => BitVec.ofNat 32 (statusNat v)
  | 0x08 => v.err.code.zeroExtend 32
  | 0x0C => v.err.index
  | 0x10 => v.err.packet
  | 0x14 => v.err.page
  | 0x18 => BitVec.ofNat 32 v.warn.exhausted
  | 0x1C => BitVec.ofNat 32 v.warn.clamp
  | 0x20 => BitVec.ofNat 32 v.cfg.channels
  | 0x24 => v.cfg.rate
  | 0x28 => BitVec.ofInt 32 v.cfg.brMax
  | 0x2C => BitVec.ofInt 32 v.cfg.brNom
  | 0x30 => BitVec.ofInt 32 v.cfg.brMin
  | 0x34 => BitVec.ofNat 32 (v.cfg.e0 + 16 * v.cfg.e1)
  | 0x38 => BitVec.ofNat 32 v.cnt.pagesAccepted
  | 0x3C => BitVec.ofNat 32 v.cnt.packetsDone
  | 0x40 => loWord (BitVec.ofNat 64 v.cnt.framesOut)
  | 0x44 => hiWord (BitVec.ofNat 64 v.cnt.framesOut)
  | 0x48 => loWord v.cnt.lastGranule
  | 0x4C => hiWord v.cnt.lastGranule
  | 0x50 => v.cnt.lastSerial
  | 0x54 => v.cnt.lastSequence
  | 0x58 => v.cfg.vendorLen
  | 0x5C => v.cfg.commentCount
  | _ => 0

/-- A host read of an aligned word at or above the base address: no side effect (20_memory.md R63, R67); no value
for any other access (93_implementation_defined.md I13). -/
def hostRead (s : State) (addr : Nat) : Option Word :=
  if addr % 4 = 0 ∧ s.params.regsBase ≤ addr then some (regAt s.view (addr - s.params.regsBase)) else none

/-- `CTRL.START` (10_state.md R41): acts in `IDLE` only. -/
def startCore (s : State) : State :=
  if s.phase = .idle then { s with phase := .hdrId, seq := .boundary }.publish else s

/-- A write of `CTRL` (10_state.md R41): SRESET first, then START; the reserved bits are ignored. -/
def writeCtrl (v : Word) (s : State) : State :=
  if v.getLsbD 1 then softReset s else if v.getLsbD 0 then startCore s else s

/-- One host write (10_state.md R40, 20_memory.md R63): only `CTRL` acts. The model's choice (log 15, DESIGN CHOICE): alignment
is tested on the absolute address, and `REGS_BASE` is taken to be a multiple of 4 (`Params.wf`); with another base an access to
a register is refused or reaches none. -/
def hostWrite (w : HostWrite) (s : State) : Host.Outcome State Fault Refusal :=
  if w.addr % 4 ≠ 0 then .refused .hostAccess
  else if w.addr = s.params.regsBase then .next (writeCtrl w.value s)
  else .next s

end Sys2Proof.Machine
end

