-- ==== Sys2Proof/WellFormed.lean ====
section
/-! DEFINITION. The decode context (which unit stands at the bit cursor, and the configuration that sizes its
fields: 30_encoding.md R82, R95, R99), and when an instruction is well formed in a context: every field in the
range of its width, every list as long as the layout makes it. Legality of a value (30_encoding.md R97) is not
well-formedness: an illegal value is a field the core reads and then raises on. -/

namespace Sys2Proof

/-- The unit the core decodes next. The first number of a setup unit is its instance index. -/
inductive Ctx where
  /-- A page (40_ogg_demuxer.md R120). -/
  | page
  /-- The three header packets (42_headers.md R170). -/
  | idHdr | commentHdr | setupHdr
  /-- Codebook `b`, its length list and its lookup (43_codebook.md R210): `entries` and `dims` of the book,
  and the room left in the multiplicand store. -/
  | codebook (b : Nat)
  | lengths (entries : Nat)
  | lookup (b entries dims room : Nat)
  /-- Time entry `t` (42_headers.md R177). -/
  | time (t : Nat)
  | floor (i : Nat)
  | residue (i : Nat)
  | mapping (i channels : Nat)
  | mode (i : Nat)
  /-- An audio packet; `N_MODES` sizes the mode number (46_audio_packet.md R300). -/
  | audio (modes : Nat)
  | window
  /-- A floor payload; `range` of the channel's floor sizes its baseline values (44_floor1.md R256). -/
  | floorPayload (range : Nat)
  /-- A residue payload, chosen by the configuration (30_encoding.md R96). -/
  | residuePayload (t : ResType)
  deriving DecidableEq, Repr, Inhabited

/-- A page's lists are as long as its header says (30_encoding.md R80). -/
def Page.wf (p : Page) : Bool :=
  decide (p.segs.length < 256) && decide (p.payload.length = total (p.segs.map BitVec.toNat))

/-- The comment header's strings are as long as their length fields say (30_encoding.md R84). -/
def CommentFields.wf (f : CommentFields) : Bool :=
  decide (f.vendor.length = f.vendorLen.toNat) && decide (f.comments.length = f.count.toNat)
    && f.comments.all (fun c => decide (c.bytes.length = c.len.toNat))

/-- The counts of an ordered length list run until every entry is assigned, the length passes 32, or a run
passes `entries` (43_codebook.md R214). -/
def orderedWf (entries : Nat) : Nat → Nat → List Nat → Bool
  | fuel, cur, [] => decide (fuel = 0 ∨ entries ≤ cur)
  | fuel, cur, c :: cs =>
    match fuel with
    | 0 => false
    | k + 1 => decide (cur < entries) && decide (c < 2 ^ countWidth entries cur)
        && (if entries < cur + c then cs.isEmpty else orderedWf entries k (cur + c) cs)

/-- The multiplicands of a lookup (30_encoding.md R86). -/
def VqFields.wf (f : VqFields) (t entries dims room : Nat) : Bool :=
  decide (f.mult.length = multCount t entries dims room)
    && f.mult.all (fun m => decide (m < 2 ^ plusOne f.valueBitsM1))

/-- One floor class (30_encoding.md R88). -/
def ClassFields.wf (c : ClassFields) : Bool :=
  (c.master.isSome == (c.sub != 0)) && decide (c.books.length = subBookCount c.sub)

/-- A type-1 floor body (30_encoding.md R88). -/
def FloorFields.wf (f : FloorFields) : Bool :=
  decide (f.partClass.length < 32) && decide (f.classes.length = classCount f.partClass)
    && f.classes.all ClassFields.wf
    && decide (f.xs.length = xCount f.partClass (f.classes.map (fun c => plusOne c.dimM1)))
    && f.xs.all (fun x => decide (x < 2 ^ f.rangebits.toNat))

/-- A residue body (30_encoding.md R89). -/
def ResidueFields.wf (f : ResidueFields) : Bool :=
  decide (f.cascade.length = plusOne f.classificationsM1)
    && decide (f.books.map List.length = f.cascade.map (fun c => passCount (cascadeValue c)))

/-- A mapping body, with the channel count that sizes it (30_encoding.md R90). -/
def MapFields.wf (f : MapFields) (channels : Nat) : Bool :=
  (match f.coupling with
    | none => true
    | some steps => decide (0 < steps.length ∧ steps.length ≤ 256)
        && steps.all (fun p => decide (p.1 < 2 ^ couplingWidth channels ∧ p.2 < 2 ^ couplingWidth channels)))
    && decide (f.mux.length = if 1 < submapCount f.submapsM1 then channels else 0)
    && decide (f.subs.length = submapCount f.submapsM1)

/-- An instruction is well formed in a decode context. -/
def Instr.wf : Ctx → Instr → Bool
  | .page, .oggPage p => p.wf
  | .idHdr, .idHdr _ => true
  | .commentHdr, .commentHdr f => f.wf
  | .setupHdr, .setupHdr _ => true
  | .codebook _, .codebook _ _ => true
  | .lengths entries, .cbLenDense lens => decide (lens.length = entries)
  | .lengths entries, .cbLenSparse lens => decide (lens.length = entries)
  | .lengths entries, .cbLenOrdered initM1 counts => orderedWf entries (32 - initM1.toNat) 0 counts
  | .lookup _ _ _ _, .cbLookup0 => true
  | .lookup _ entries dims room, .cbLookup1 f => f.wf 1 entries dims room
  | .lookup _ entries dims room, .cbLookup2 f => f.wf 2 entries dims room
  | .time _, .timeEntry => true
  | .floor _, .floor1 f => f.wf
  | .residue _, .res0 f => f.wf
  | .residue _, .res1 f => f.wf
  | .residue _, .res2 f => f.wf
  | .mapping _ channels, .map0 f => f.wf channels
  | .mode _, .mode _ _ => true
  | .audio modes, .audioPacket m => decide (m < 2 ^ modeWidth modes)
  | .window, .windowFlags _ _ => true
  | .floorPayload _, .floor1PayloadUnused => true
  | .floorPayload range, .floor1PayloadPresent y0 y1 =>
    decide (y0 < 2 ^ floorYWidth range ∧ y1 < 2 ^ floorYWidth range)
  | .residuePayload .t0, .res0Payload => true
  | .residuePayload .t1, .res1Payload => true
  | .residuePayload .t2, .res2Payload => true
  | _, _ => false

end Sys2Proof
end

