-- ==== Sys2Proof/Decode.lean ====
section
/-! DEFINITION. The decoder, total on any bits and any bytes, which rejects an illegal selector by the name of its
cause (30_encoding.md R96, R97); the encoder, written from the same layouts (30_encoding.md R80 to R94); and the
reading of an opcode-table word. A field that starts past the packet's end reads as zeros (41_bitreader.md R154). -/

namespace Sys2Proof

/-- What the decoder answers.
`illegal c index reads head`: the selector is illegal for the cause `c`; `index` is what `ERR_INDEX` will hold;
`reads` are the widths of the fields read, the failing one last; `head` is the value the configuration entry under
construction had been given before the check (the lookup type, or the mode's block flag). -/
inductive Decoded where
  | ok (i : Instr) (rest : List Bool)
  | illegal (c : ErrCode) (index : Nat) (reads : List Nat) (head : Nat)
  deriving DecidableEq, Repr

/-! ### Repeated fields -/

/-- Read `k` fields of `n` bits as bit vectors. -/
def takeBvs (n : Nat) : Nat → List Bool → List (BitVec n) × List Bool
  | 0, bs => ([], bs)
  | k + 1, bs =>
    let x := takeBv n bs
    let xs := takeBvs n k x.2
    (x.1 :: xs.1, xs.2)

/-- Read `k` fields of `n` bits as numbers. -/
def takeNats (n : Nat) : Nat → List Bool → List Nat × List Bool
  | 0, bs => ([], bs)
  | k + 1, bs =>
    let x := takeNat n bs
    let xs := takeNats n k x.2
    (x.1 :: xs.1, xs.2)

/-- Read an `n`-bit field that is present when a one-bit flag is 1. -/
def takeOption (n : Nat) (bs : List Bool) : Option (BitVec n) × List Bool :=
  let f := takeBit bs
  if f.1 then (some (takeBv n f.2).1, (takeBv n f.2).2) else (none, f.2)

/-- Read `k` such optional fields. -/
def takeOptions (n : Nat) : Nat → List Bool → List (Option (BitVec n)) × List Bool
  | 0, bs => ([], bs)
  | k + 1, bs =>
    let x := takeOption n bs
    let xs := takeOptions n k x.2
    (x.1 :: xs.1, xs.2)

/-- Read up to `k` bytes, stopping where the packet's bits end. -/
def takeBytes : Nat → List Bool → List Byte × List Bool
  | 0, bs => ([], bs)
  | _ + 1, [] => ([], [])
  | k + 1, b :: bs =>
    let x := takeBv 8 (b :: bs)
    let xs := takeBytes k x.2
    (x.1 :: xs.1, xs.2)

/-! ### The prefix of a header packet (42_headers.md R171) -/

/-- The six bytes "vorbis" (30_encoding.md R82). -/
def magicBytes : List Nat := [0x76, 0x6F, 0x72, 0x62, 0x69, 0x73]

/-- Check the magic from byte `k` on; the first byte that differs, or the bits after the magic. -/
def checkMagic : List Nat → Nat → List Bool → Sum Nat (List Bool)
  | [], _, bs => .inr bs
  | m :: ms, k, bs =>
    let x := takeNat 8 bs
    if x.1 = m then checkMagic ms (k + 1) x.2 else .inl k

/-- `header_prefix(t)` followed by the decoding `body` of what stands after it (42_headers.md R171). -/
def decodePrefixed (t : Nat) (bs : List Bool) (body : List Bool → Decoded) : Decoded :=
  let ty := takeNat 8 bs
  if ty.1 ≠ t then .illegal .hdrType ty.1 [8] 0
  else
    match checkMagic magicBytes 0 ty.2 with
    | .inl k => .illegal .hdrMagic k (List.replicate (k + 2) 8) 0
    | .inr rest => body rest

/-! ### The units -/

/-- 30_encoding.md R83. -/
def decodeIdFields (bs : List Bool) : IdFields × List Bool :=
  let version := takeBv 32 bs
  let channels := takeBv 8 version.2
  let rate := takeBv 32 channels.2
  let brMax := takeBv 32 rate.2
  let brNom := takeBv 32 brMax.2
  let brMin := takeBv 32 brNom.2
  let e0 := takeBv 4 brMin.2
  let e1 := takeBv 4 e0.2
  let framing := takeBit e1.2
  ({ version := version.1, channels := channels.1, rate := rate.1, brMax := brMax.1, brNom := brNom.1,
     brMin := brMin.1, e0 := e0.1, e1 := e1.1, framing := framing.1 }, framing.2)

/-- Up to `k` user comments, stopping where the packet's bits end (30_encoding.md R84). -/
def decodeComments : Nat → List Bool → List Comment × List Bool
  | 0, bs => ([], bs)
  | _ + 1, [] => ([], [])
  | k + 1, b :: bs =>
    let len := takeBv 32 (b :: bs)
    let bytes := takeBytes (min len.1.toNat (bs.length + 1)) len.2
    let more := decodeComments k bytes.2
    ({ len := len.1, bytes := bytes.1 } :: more.1, more.2)

/-- 30_encoding.md R84. A count larger than the packet can hold stops where the packet's bits end. -/
def decodeCommentFields (bs : List Bool) : CommentFields × List Bool :=
  let vl := takeBv 32 bs
  let vendor := takeBytes (min vl.1.toNat (bs.length + 1)) vl.2
  let count := takeBv 32 vendor.2
  let comments := decodeComments (min count.1.toNat (bs.length + 1)) count.2
  let framing := takeBit comments.2
  ({ vendorLen := vl.1, vendor := vendor.1, count := count.1, comments := comments.1, framing := framing.1 },
    framing.2)

/-- The run counts of an ordered length list (43_codebook.md R214): `fuel` lengths are left up to 32. -/
def decodeCounts (entries : Nat) : Nat → Nat → List Bool → List Nat × List Bool
  | 0, _, bs => ([], bs)
  | k + 1, cur, bs =>
    if entries ≤ cur then ([], bs)
    else
      let c := takeNat (countWidth entries cur) bs
      if entries < cur + c.1 then ([c.1], c.2)
      else
        let more := decodeCounts entries k (cur + c.1) c.2
        (c.1 :: more.1, more.2)

/-- The length list forms (30_encoding.md R86): ordered, or dense or sparse. -/
def decodeLengths (entries : Nat) (bs : List Bool) : Decoded :=
  let ordered := takeBit bs
  if ordered.1 then
    let initM1 := takeBv 5 ordered.2
    let counts := decodeCounts entries (32 - initM1.1.toNat) 0 initM1.2
    .ok (.cbLenOrdered initM1.1 counts.1) counts.2
  else
    let sparse := takeBit ordered.2
    if sparse.1 then
      let lens := takeOptions 5 entries sparse.2
      .ok (.cbLenSparse lens.1) lens.2
    else
      let lens := takeBvs 5 entries sparse.2
      .ok (.cbLenDense lens.1) lens.2

/-- The body of lookup type 1 or 2 (30_encoding.md R86). -/
def decodeVqFields (t entries dims room : Nat) (bs : List Bool) : VqFields × List Bool :=
  let minimum := takeBv 32 bs
  let delta := takeBv 32 minimum.2
  let valueBitsM1 := takeBv 4 delta.2
  let seq := takeBit valueBitsM1.2
  let mult := takeNats (plusOne valueBitsM1.1) (multCount t entries dims room) seq.2
  ({ minimum := minimum.1, delta := delta.1, valueBitsM1 := valueBitsM1.1, seq := seq.1, mult := mult.1 }, mult.2)

/-- The lookup field (43_codebook.md R215): types 3..15 are illegal. -/
def decodeLookup (b entries dims room : Nat) (bs : List Bool) : Decoded :=
  let t := takeNat 4 bs
  match t.1 with
  | 0 => .ok .cbLookup0 t.2
  | 1 => .ok (.cbLookup1 (decodeVqFields 1 entries dims room t.2).1) (decodeVqFields 1 entries dims room t.2).2
  | 2 => .ok (.cbLookup2 (decodeVqFields 2 entries dims room t.2).1) (decodeVqFields 2 entries dims room t.2).2
  | other => .illegal .cbLookup b [4] other

/-- One floor class (30_encoding.md R88). -/
def decodeClass (bs : List Bool) : ClassFields × List Bool :=
  let dimM1 := takeBv 3 bs
  let sub := takeBv 2 dimM1.2
  let master : Option (BitVec 8) × List Bool :=
    if sub.1 = 0 then (none, sub.2) else (some (takeBv 8 sub.2).1, (takeBv 8 sub.2).2)
  let books := takeBvs 8 (subBookCount sub.1) master.2
  ({ dimM1 := dimM1.1, sub := sub.1, master := master.1, books := books.1 }, books.2)

/-- `k` floor classes. -/
def decodeClasses : Nat → List Bool → List ClassFields × List Bool
  | 0, bs => ([], bs)
  | k + 1, bs =>
    let c := decodeClass bs
    let cs := decodeClasses k c.2
    (c.1 :: cs.1, cs.2)

/-- The body of a type-1 floor (30_encoding.md R88). -/
def decodeFloorFields (bs : List Bool) : FloorFields × List Bool :=
  let parts := takeNat 5 bs
  let partClass := takeBvs 4 parts.1 parts.2
  let classes := decodeClasses (classCount partClass.1) partClass.2
  let multM1 := takeBv 2 classes.2
  let rangebits := takeBv 4 multM1.2
  let xs := takeNats rangebits.1.toNat (xCount partClass.1 (classes.1.map (fun c => plusOne c.dimM1))) rangebits.2
  ({ partClass := partClass.1, classes := classes.1, multM1 := multM1.1, rangebits := rangebits.1, xs := xs.1 },
    xs.2)

/-- `k` cascade fields (30_encoding.md R89). -/
def decodeCascades : Nat → List Bool → List CascadeFields × List Bool
  | 0, bs => ([], bs)
  | k + 1, bs =>
    let low := takeBv 3 bs
    let high := takeOption 5 low.2
    let more := decodeCascades k high.2
    ({ low := low.1, high := high.1 } :: more.1, more.2)

/-- The pass books, one list per classification (30_encoding.md R89). -/
def decodePassBooks : List CascadeFields → List Bool → List (List (BitVec 8)) × List Bool
  | [], bs => ([], bs)
  | c :: cs, bs =>
    let books := takeBvs 8 (passCount (cascadeValue c)) bs
    let more := decodePassBooks cs books.2
    (books.1 :: more.1, more.2)

/-- The body of a residue (30_encoding.md R89). -/
def decodeResidueFields (bs : List Bool) : ResidueFields × List Bool :=
  let begin := takeBv 24 bs
  let stop := takeBv 24 begin.2
  let psizeM1 := takeBv 24 stop.2
  let classificationsM1 := takeBv 6 psizeM1.2
  let classbook := takeBv 8 classificationsM1.2
  let cascade := decodeCascades (plusOne classificationsM1.1) classbook.2
  let books := decodePassBooks cascade.1 cascade.2
  ({ begin := begin.1, stop := stop.1, psizeM1 := psizeM1.1, classificationsM1 := classificationsM1.1,
     classbook := classbook.1, cascade := cascade.1, books := books.1 }, books.2)

/-- `k` coupling steps of width `w` (30_encoding.md R90). -/
def decodeSteps (w : Nat) : Nat → List Bool → List (Nat × Nat) × List Bool
  | 0, bs => ([], bs)
  | k + 1, bs =>
    let m := takeNat w bs
    let a := takeNat w m.2
    let more := decodeSteps w k a.2
    ((m.1, a.1) :: more.1, more.2)

/-- `k` submaps (30_encoding.md R90). -/
def decodeSubmaps : Nat → List Bool → List SubmapFields × List Bool
  | 0, bs => ([], bs)
  | k + 1, bs =>
    let p := takeBv 8 bs
    let f := takeBv 8 p.2
    let r := takeBv 8 f.2
    let more := decodeSubmaps k r.2
    ({ placeholder := p.1, floor := f.1, residue := r.1 } :: more.1, more.2)

/-- The body of a mapping (30_encoding.md R90). -/
def decodeMapFields (channels : Nat) (bs : List Bool) : MapFields × List Bool :=
  let submapsM1 := takeOption 4 bs
  let stepsM1 := takeOption 8 submapsM1.2
  let coupling : Option (List (Nat × Nat)) × List Bool :=
    match stepsM1.1 with
    | none => (none, stepsM1.2)
    | some k =>
      let steps := decodeSteps (couplingWidth channels) (plusOne k) stepsM1.2
      (some steps.1, steps.2)
  let reserved := takeBv 2 coupling.2
  let mux := takeBvs 4 (if 1 < submapCount submapsM1.1 then channels else 0) reserved.2
  let subs := decodeSubmaps (submapCount submapsM1.1) mux.2
  ({ submapsM1 := submapsM1.1, coupling := coupling.1, reserved := reserved.1, mux := mux.1, subs := subs.1 },
    subs.2)

/-- A mode (30_encoding.md R91): the block flag, then the two type fields, which are the selector. -/
def decodeMode (i : Nat) (bs : List Bool) : Decoded :=
  let blockflag := takeBit bs
  let window := takeNat 16 blockflag.2
  let transform := takeNat 16 window.2
  let mapping := takeBv 8 transform.2
  if window.1 ≠ 0 then .illegal .modeWindow i [1, 16] blockflag.1.toNat
  else if transform.1 ≠ 0 then .illegal .modeTransform i [1, 16, 16] blockflag.1.toNat
  else .ok (.mode blockflag.1 mapping.1) mapping.2

/-! ### Pages -/

/-- What a byte string is as a page: too short to be one, illegal after its 27 header bytes, or a page. -/
inductive PageDecoded where
  | short
  | illegal (c : ErrCode)
  | ok (p : Page)
  deriving DecidableEq, Repr

/-- The length of a page's header without its segment table (30_encoding.md R80). -/
def headerBytes : Nat := 27

/-- The length of a page in bytes (30_encoding.md R80). -/
def Page.byteLength (p : Page) : Nat := headerBytes + p.segs.length + p.payload.length

/-- The first failing header check, in field order (40_ogg_demuxer.md R121). -/
def checkHeader (h : List Byte) : Option ErrCode :=
  if leNat (h.take 4) ≠ 0x5367674F then some .pageCapture
  else if h.getD 4 0 ≠ 0 then some .pageVersion
  else if 7 < (h.getD 5 0).toNat then some .pageHtype
  else none

/-- `NSEG`, the segment table and the payload of a byte string that begins with a page header, as far as the
bytes go (30_encoding.md R80). -/
def segsOf (bytes : List Byte) : List Byte := (bytes.drop headerBytes).take (bytes.getD 26 0).toNat

/-- See `segsOf`. -/
def payloadOf (bytes : List Byte) : List Byte :=
  (bytes.drop (headerBytes + (bytes.getD 26 0).toNat)).take (total ((segsOf bytes).map BitVec.toNat))

/-- The page that a long enough byte string with a legal header begins with (30_encoding.md R80). -/
def pageOf (bytes : List Byte) : Page :=
  { htype := BitVec.ofNat 3 (bytes.getD 5 0).toNat
    granule := BitVec.ofNat 64 (leNat ((bytes.drop 6).take 8))
    serial := BitVec.ofNat 32 (leNat ((bytes.drop 14).take 4))
    sequence := BitVec.ofNat 32 (leNat ((bytes.drop 18).take 4))
    crc := BitVec.ofNat 32 (leNat ((bytes.drop 22).take 4))
    segs := segsOf bytes
    payload := payloadOf bytes }

/-- Decode the page a byte string begins with (40_ogg_demuxer.md R120): the 27 header bytes are there before any
check, and every byte is there before the page is one. -/
def decodePage (bytes : List Byte) : PageDecoded :=
  if bytes.length < headerBytes then .short
  else
    match checkHeader bytes with
    | some c => .illegal c
    | none =>
      if bytes.length < headerBytes + (bytes.getD 26 0).toNat then .short
      else if bytes.length < headerBytes + (bytes.getD 26 0).toNat + total ((segsOf bytes).map BitVec.toNat) then .short
      else .ok (pageOf bytes)

/-! ### The decoder -/

/-- Decode the unit that stands first in a bit string, in its context. -/
def decode (c : Ctx) (bs : List Bool) : Decoded :=
  match c with
  | .page =>
    match decodePage (bytesOfBits (bs.length / 8) bs) with
    | .short => .illegal .pageTruncated 0 [] 0
    | .illegal c => .illegal c 0 (List.replicate headerBytes 8) 0
    | .ok p => .ok (.oggPage p) (bs.drop (8 * p.byteLength))
  | .idHdr => decodePrefixed 1 bs (fun rest => .ok (.idHdr (decodeIdFields rest).1) (decodeIdFields rest).2)
  | .commentHdr =>
    decodePrefixed 3 bs (fun rest => .ok (.commentHdr (decodeCommentFields rest).1) (decodeCommentFields rest).2)
  | .setupHdr => decodePrefixed 5 bs (fun rest => .ok (.setupHdr (takeBv 8 rest).1) (takeBv 8 rest).2)
  | .codebook b =>
    let sync := takeNat 24 bs
    let dims := takeBv 16 sync.2
    let entries := takeBv 24 dims.2
    if sync.1 ≠ 0x564342 then .illegal .cbSync b [24] 0 else .ok (.codebook dims.1 entries.1) entries.2
  | .lengths entries => decodeLengths entries bs
  | .lookup b entries dims room => decodeLookup b entries dims room bs
  | .time t =>
    let v := takeNat 16 bs
    if v.1 ≠ 0 then .illegal .timeNonzero t [16] 0 else .ok .timeEntry v.2
  | .floor i =>
    let t := takeNat 16 bs
    if t.1 ≠ 1 then .illegal .floorType i [16] 0
    else .ok (.floor1 (decodeFloorFields t.2).1) (decodeFloorFields t.2).2
  | .residue i =>
    let t := takeNat 16 bs
    match t.1 with
    | 0 => .ok (.res0 (decodeResidueFields t.2).1) (decodeResidueFields t.2).2
    | 1 => .ok (.res1 (decodeResidueFields t.2).1) (decodeResidueFields t.2).2
    | 2 => .ok (.res2 (decodeResidueFields t.2).1) (decodeResidueFields t.2).2
    | _ => .illegal .resType i [16] 0
  | .mapping i channels =>
    let t := takeNat 16 bs
    if t.1 ≠ 0 then .illegal .mapType i [16] 0
    else .ok (.map0 (decodeMapFields channels t.2).1) (decodeMapFields channels t.2).2
  | .mode i => decodeMode i bs
  | .audio modes =>
    let ty := takeBit bs
    let mode := takeNat (modeWidth modes) ty.2
    if ty.1 then .illegal .audioType 0 [1] 0 else .ok (.audioPacket mode.1) mode.2
  | .window =>
    let p := takeBit bs
    let n := takeBit p.2
    .ok (.windowFlags p.1 n.1) n.2
  | .floorPayload range =>
    let flag := takeBit bs
    let y0 := takeNat (floorYWidth range) flag.2
    let y1 := takeNat (floorYWidth range) y0.2
    if flag.1 then .ok (.floor1PayloadPresent y0.1 y1.1) y1.2 else .ok .floor1PayloadUnused flag.2
  | .residuePayload .t0 => .ok .res0Payload bs
  | .residuePayload .t1 => .ok .res1Payload bs
  | .residuePayload .t2 => .ok .res2Payload bs

/-! ### The encoder -/

/-- An optional field behind its one-bit flag. -/
def encOption (n : Nat) : Option (BitVec n) → List Bool
  | none => [false]
  | some v => true :: bitsOf n v.toNat

/-- A bit vector field. -/
def encBv {n : Nat} (v : BitVec n) : List Bool := bitsOf n v.toNat

/-- The prefix of a header packet: the type byte and "vorbis" (30_encoding.md R82). -/
def encPrefix (t : Nat) : List Bool := bitsOf 8 t ++ magicBytes.flatMap (bitsOf 8)

/-- The bytes of a page (30_encoding.md R80). -/
def encodePage (p : Page) : List Byte :=
  leBytes 4 0x5367674F ++ [0] ++ [BitVec.ofNat 8 p.htype.toNat] ++ leBytes 8 p.granule.toNat
    ++ leBytes 4 p.serial.toNat ++ leBytes 4 p.sequence.toNat ++ leBytes 4 p.crc.toNat
    ++ [BitVec.ofNat 8 p.segs.length] ++ p.segs ++ p.payload

/-- 30_encoding.md R83. -/
def encIdFields (f : IdFields) : List Bool :=
  encBv f.version ++ encBv f.channels ++ encBv f.rate ++ encBv f.brMax ++ encBv f.brNom ++ encBv f.brMin
    ++ encBv f.e0 ++ encBv f.e1 ++ [f.framing]

/-- 30_encoding.md R84. -/
def encCommentFields (f : CommentFields) : List Bool :=
  encBv f.vendorLen ++ bitsOfBytes f.vendor ++ encBv f.count
    ++ f.comments.flatMap (fun c => encBv c.len ++ bitsOfBytes c.bytes) ++ [f.framing]

/-- The run counts of an ordered length list, each as wide as the entries left (43_codebook.md R214). -/
def encCounts (entries : Nat) : Nat → List Nat → List Bool
  | _, [] => []
  | cur, c :: cs => bitsOf (countWidth entries cur) c ++ encCounts entries (cur + c) cs

/-- 30_encoding.md R86. -/
def encVqFields (f : VqFields) : List Bool :=
  encBv f.minimum ++ encBv f.delta ++ encBv f.valueBitsM1 ++ [f.seq]
    ++ f.mult.flatMap (bitsOf (plusOne f.valueBitsM1))

/-- 30_encoding.md R88. -/
def encClass (c : ClassFields) : List Bool :=
  encBv c.dimM1 ++ encBv c.sub
    ++ (match c.master with
        | none => []
        | some m => encBv m)
    ++ c.books.flatMap encBv

/-- 30_encoding.md R88. -/
def encFloorFields (f : FloorFields) : List Bool :=
  bitsOf 5 f.partClass.length ++ f.partClass.flatMap encBv ++ f.classes.flatMap encClass
    ++ encBv f.multM1 ++ encBv f.rangebits ++ f.xs.flatMap (bitsOf f.rangebits.toNat)

/-- 30_encoding.md R89. -/
def encResidueFields (f : ResidueFields) : List Bool :=
  encBv f.begin ++ encBv f.stop ++ encBv f.psizeM1 ++ encBv f.classificationsM1 ++ encBv f.classbook
    ++ f.cascade.flatMap (fun c => encBv c.low ++ encOption 5 c.high)
    ++ f.books.flatMap (fun bs => bs.flatMap encBv)

/-- The coupling section of a mapping (30_encoding.md R90). -/
def encCoupling (w : Nat) : Option (List (Nat × Nat)) → List Bool
  | none => [false]
  | some steps => true :: bitsOf 8 (steps.length - 1)
      ++ steps.flatMap (fun p => bitsOf w p.1 ++ bitsOf w p.2)

/-- 30_encoding.md R90. -/
def encMapFields (channels : Nat) (f : MapFields) : List Bool :=
  encOption 4 f.submapsM1 ++ encCoupling (couplingWidth channels) f.coupling ++ encBv f.reserved
    ++ f.mux.flatMap encBv
    ++ f.subs.flatMap (fun s => encBv s.placeholder ++ encBv s.floor ++ encBv s.residue)

/-- The words of an instruction in its context, as the bits of the stream (30_encoding.md R80 to R94). The context
gives the computed widths (30_encoding.md R95); the codewords of the payloads are no part of it
(30_encoding.md R99). -/
def encode (c : Ctx) : Instr → List Bool
  | .oggPage p => bitsOfBytes (encodePage p)
  | .idHdr f => encPrefix 1 ++ encIdFields f
  | .commentHdr f => encPrefix 3 ++ encCommentFields f
  | .setupHdr n => encPrefix 5 ++ encBv n
  | .codebook dims entries => bitsOf 24 0x564342 ++ encBv dims ++ encBv entries
  | .cbLenDense lens => [false, false] ++ lens.flatMap encBv
  | .cbLenSparse lens => [false, true] ++ lens.flatMap (encOption 5)
  | .cbLenOrdered initM1 counts =>
    [true] ++ encBv initM1
      ++ (match c with
          | .lengths entries => encCounts entries 0 counts
          | _ => [])
  | .cbLookup0 => bitsOf 4 0
  | .cbLookup1 f => bitsOf 4 1 ++ encVqFields f
  | .cbLookup2 f => bitsOf 4 2 ++ encVqFields f
  | .timeEntry => bitsOf 16 0
  | .floor1 f => bitsOf 16 1 ++ encFloorFields f
  | .res0 f => bitsOf 16 0 ++ encResidueFields f
  | .res1 f => bitsOf 16 1 ++ encResidueFields f
  | .res2 f => bitsOf 16 2 ++ encResidueFields f
  | .map0 f =>
    bitsOf 16 0
      ++ (match c with
          | .mapping _ channels => encMapFields channels f
          | _ => [])
  | .mode blockflag mapping => [blockflag] ++ bitsOf 16 0 ++ bitsOf 16 0 ++ encBv mapping
  | .audioPacket mode =>
    [false]
      ++ (match c with
          | .audio modes => bitsOf (modeWidth modes) mode
          | _ => [])
  | .windowFlags prev next => [prev, next]
  | .floor1PayloadUnused => [false]
  | .floor1PayloadPresent y0 y1 =>
    [true]
      ++ (match c with
          | .floorPayload range => bitsOf (floorYWidth range) y0 ++ bitsOf (floorYWidth range) y1
          | _ => [])
  | .res0Payload => []
  | .res1Payload => []
  | .res2Payload => []

/-! ### Opcode-table words -/

/-- The context in which a table row of `nbits` bits (whole bytes) with the bits `w` is read. The selectors of
this hardware are read in a context, and rows of several contexts share one width and value
(30_encoding.md R96): such a word is read in ONE of them, the first named here. -/
def tableCtx (nbits w : Nat) : Ctx :=
  if 48 < nbits then (if w % 256 = 3 then .commentHdr else if w % 256 = 5 then .setupHdr else .idHdr)
  else if 40 < nbits then .page
  else if 24 < nbits then .mode 0
  else if 16 < nbits then .codebook 0
  else if 8 < nbits then (if w = 0 then .time 0 else if w = 1 then .floor 0 else .residue 0)
  else if nbits = 0 then .window
  else if w = 0 then .audio 1
  else .lengths 0

/-- The number of bytes a table word is laid out in: a whole page header for a page, else 64 bytes. -/
def tableBytes (nbits w : Nat) : Nat :=
  match tableCtx nbits w with
  | .page => headerBytes
  | _ => 64

/-- The bytes of a table word, low byte first, then zeros (20_memory.md R61, R64). -/
def tableWordBytes (nbits w : Nat) : List Byte := leBytes (tableBytes nbits w) (w % 2 ^ nbits)

/-- The instruction the decoder reads from an opcode-table word. -/
def decodeTableWord (nbits w : Nat) : Option Instr :=
  match decode (tableCtx nbits w) (bitsOfBytes (tableWordBytes nbits w)) with
  | .ok i _ => some i
  | .illegal _ _ _ _ => none

end Sys2Proof
end

