-- ==== Sys2Proof/Machine/Ogg.lean ====
section
/-! DEFINITION. The Ogg demultiplexer (40_ogg_demuxer.md): the page, its CRC, its acceptance, the byte source's answers
inside a page, and packet assembly. -/

namespace Sys2Proof.Machine

open Sys2Proof

/-! ### CRC-32 (40_ogg_demuxer.md R123, R124) -/

/-- The generator polynomial. -/
def crcPoly : BitVec 32 := 0x04C11DB7

/-- One shift of the table entry: left, and the polynomial when the top bit was 1. -/
def crcShift (r : BitVec 32) : BitVec 32 := if r.msb then (r <<< 1) ^^^ crcPoly else r <<< 1

/-- `crc_table(i)` (40_ogg_demuxer.md R123). -/
def crcTable (i : Byte) : BitVec 32 := crcShift^[8] (i.zeroExtend 32 <<< 24)

/-- `crc_update(reg, b)` (40_ogg_demuxer.md R124). -/
def crcUpdate (reg : BitVec 32) (b : Byte) : BitVec 32 := (reg <<< 8) ^^^ crcTable (reg.extractLsb' 24 8 ^^^ b)

/-- The register over a byte string, from 0 (40_ogg_demuxer.md R124). -/
def crcOf (bytes : List Byte) : BitVec 32 := bytes.foldl crcUpdate 0

/-- `page_crc()`: over every byte of the page, the CRC field taken as 0 (40_ogg_demuxer.md R124). -/
def pageCrc (p : Page) : BitVec 32 := crcOf (encodePage { p with crc := 0 })

/-! ### The page (40_ogg_demuxer.md R120, R125, R126) -/

/-- The page record of a page read in full (10_state.md R24). -/
def PageRec.ofPage (p : Page) : PageRec :=
  { capture := 0x5367674F
    version := 0
    htype := p.htype.zeroExtend 8
    granule := p.granule
    serial := p.serial
    sequence := p.sequence
    crc := p.crc
    nseg := BitVec.ofNat 8 p.segs.length
    seg := p.segs
    payload := p.payload }

/-- `accept_page()` (40_ogg_demuxer.md R126). -/
def acceptPage (s : State) : State :=
  { s with
    pageValid := true
    segCursor := 0
    payCursor := 0
    cnt :=
      { s.cnt with
        pagesAccepted := satAdd 32 s.cnt.pagesAccepted 1
        lastGranule := s.pg.granule
        lastSerial := s.pg.serial
        lastSequence := s.pg.sequence } }

/-- Take `k` bytes, then go on; a run that would pass the width of `SRC_POS` is not admitted (10_state.md R23,
93_implementation_defined.md I18). -/
def takeThen (k : Nat) (s : State) (f : State → Host.Outcome State Fault Refusal) : Host.Outcome State Fault Refusal :=
  if 2 ^ 64 ≤ s.srcPos + k then .refused .srcPosWidth else f (s.takeSrc k)

/-- OGG_PAGE: `read_page()` of a page that the source holds in full and whose selector is legal
(40_ogg_demuxer.md R120): its bytes are taken, its record is filled, its CRC is checked, and it is accepted. -/
def execOggPage (p : Page) (s : State) : Host.Outcome State Fault Refusal :=
  takeThen p.byteLength s fun t =>
    let u := { t with pg := PageRec.ofPage p }
    if pageCrc p = p.crc then .next (acceptPage u) else abort u .pageCrc u.cnt.pagesAccepted

/-! ### A page that does not come (40_ogg_demuxer.md R120, R121, R128) -/

/-- The page record after the header checks of `h`, as far as they go (40_ogg_demuxer.md R121). -/
def PageRec.checked (h : List Byte) (p : PageRec) : PageRec :=
  let capture := BitVec.ofNat 32 (leNat (h.take 4))
  let p1 := { p with capture := capture }
  if capture ≠ 0x5367674F then p1
  else
    let p2 := { p1 with version := h.getD 4 0 }
    if h.getD 4 0 ≠ 0 then p2 else { p2 with htype := h.getD 5 0 }

/-- The page record after the first bytes of a page with a legal header, as far as they go (40_ogg_demuxer.md R120;
log 6): the header fields, then the table and the payload byte by byte. A byte that has not come keeps its old value; the
table is `NSEG` long, and the payload `PG_LEN` once the table is read (10_state.md R24). -/
def PageRec.partly (bytes : List Byte) (p : PageRec) : PageRec :=
  if bytes.length < headerBytes then p
  else
    let q := pageOf bytes
    let nseg := bytes.getD 26 0
    { PageRec.ofPage q with
      nseg := nseg
      seg := (overwrite q.segs p.seg).take nseg.toNat
      payload :=
        if bytes.length < headerBytes + nseg.toNat then p.payload
        else (overwrite q.payload p.payload).take (total (q.segs.map BitVec.toNat)) }

/-- The answers of the source after its leading bytes. -/
def srcAfter : List SrcAnswer → List SrcAnswer
  | .byte _ :: rest => srcAfter rest
  | answers => answers

/-- The source fails: `IOError(E_IO, SRC_POS)` after the bytes already taken (60_exceptions.md R355). The failed
request is used up and not counted. -/
def ioError (bytes : List Byte) (s : State) : Host.Outcome State Fault Refusal :=
  takeThen bytes.length s fun t =>
    abort { t with pg := t.pg.partly bytes, src := t.src.drop 1 } .io t.srcPos

/-- The stream ends inside a page (40_ogg_demuxer.md R120). -/
def pageTruncated (bytes : List Byte) (s : State) : Host.Outcome State Fault Refusal :=
  takeThen bytes.length s fun t => abort { t with pg := t.pg.partly bytes } .pageTruncated t.cnt.pagesAccepted

/-- A header check fails, right after the 27 header bytes are taken (40_ogg_demuxer.md R121). -/
def pageIllegal (bytes : List Byte) (c : ErrCode) (s : State) : Host.Outcome State Fault Refusal :=
  takeThen headerBytes s fun t => abort { t with pg := t.pg.checked bytes } c t.cnt.pagesAccepted

/-- A clean end of the stream: an error inside a packet, else the end (40_ogg_demuxer.md R127, R128). -/
def cleanEnd (started : Bool) (s : State) : Host.Outcome State Fault Refusal :=
  if started then abort s .streamTruncated s.packetNo else endOfStream s

/-- The source holds less than a page: it waits, fails, or has ended (40_ogg_demuxer.md R120; log 5). -/
def pageShort (started : Bool) (bytes : List Byte) (s : State) : Host.Outcome State Fault Refusal :=
  match srcAfter s.src with
  | [] => .next s
  | .ioFail :: _ => ioError bytes s
  | .byte _ :: _ => .next s
  | .eos :: _ => if bytes.isEmpty then cleanEnd started s else pageTruncated bytes s

/-! ### Packet assembly (40_ogg_demuxer.md R127) -/

/-- The start of `next_packet()`. -/
def beginPacket (s : State) : Host.Outcome State Fault Refusal :=
  .next { s with pkt := [], pktBitpos := 0, pktContinuing := false, seq := .assemble false }

/-- Whether `next_packet()` needs another page. -/
def State.needsPage (s : State) : Bool := !s.pageValid || decide (s.pg.nseg.toNat ≤ s.segCursor)

/-- One segment of `next_packet()` (40_ogg_demuxer.md R127): the cursor moves before the capacity check. -/
def takeSegment (s : State) : Host.Outcome State Fault Refusal :=
  match s.pg.seg[s.segCursor]? with
  | none => .fault .bufferBounds
  | some l =>
    let t := { s with segCursor := s.segCursor + 1 }
    if s.params.maxPacketBytes < s.pkt.length + l.toNat then abort t .capacity 1
    else
      let more := decide (l.toNat = 255)
      .next { t with
        pkt := s.pkt ++ (s.pg.payload.drop s.payCursor).take l.toNat
        payCursor := s.payCursor + l.toNat
        pktContinuing := more
        seq := if more then .assemble true else .packet }

end Sys2Proof.Machine
end

