-- ==== Sys2Proof/Machine/Floor.lean ====
section
/-! DEFINITION. Floor type 1 (44_floor1.md): the setup unit, the two packet payload units, step 2, the integer curve and
the floor vector. All arithmetic is on exact integers until the inverse-dB table (44_floor1.md R265). -/

namespace Sys2Proof.Machine

open Sys2Proof

/-! ### Setup (44_floor1.md R250 to R254, R258) -/

/-- A floor of which only the type is read. -/
def FloorConfig.fresh : FloorConfig :=
  { type := 1, partitions := 0, partClass := [], maxClass := -1, classes := [], multiplier := 0, rangebits := 0,
    xs := [], values := 0 }

/-- `decode_partitions` (44_floor1.md R251). -/
def floorPartClasses (cs : List (BitVec 4)) (p : Part FloorConfig) : Part FloorConfig :=
  p.next fun r f =>
    { rd := (r.skip 5).skipEach 4 cs.length
      val := { f with
        partitions := cs.length
        partClass := cs.map BitVec.toNat
        maxClass := (classCount cs : Int) - 1 }
      err := none }

/-- Write fields of the class under decode, the last of the list. -/
def modifyClass (g : FloorClass → FloorClass) (f : FloorConfig) : FloorConfig :=
  { f with classes := modifyAt f.classes (f.classes.length - 1) g }

/-- The masterbook of a class, present when it has subclass bits (44_floor1.md R252). -/
def floorMaster (nBooks : Nat) (m : Option (BitVec 8)) (p : Part FloorConfig) : Part FloorConfig :=
  match m with
  | none => p
  | some v =>
    p.field 8 (if v.toNat < nBooks then modifyClass (fun c => { c with master := some v.toNat }) else id)
      (checkThat (decide (v.toNat < nBooks)) .floorBook)

/-- Whether a subclass book is none or an index below the codebook count (44_floor1.md R252). -/
def subBookOk (nBooks : Nat) (v : BitVec 8) : Bool :=
  match minusOne v with
  | none => true
  | some b => decide (b < nBooks)

/-- One subclass book (44_floor1.md R252). -/
def floorSubBook (nBooks : Nat) (p : Part FloorConfig) (v : BitVec 8) : Part FloorConfig :=
  p.field 8 (if subBookOk nBooks v then modifyClass (fun c => { c with books := c.books ++ [minusOne v] }) else id)
    (checkThat (subBookOk nBooks v) .floorBook)

/-- One class (44_floor1.md R252). -/
def floorClass (nBooks : Nat) (p : Part FloorConfig) (c : ClassFields) : Part FloorConfig :=
  c.books.foldl (floorSubBook nBooks)
    (floorMaster nBooks c.master
      (p.next fun r f =>
        { rd := r.skips [3, 2]
          val := { f with
            classes := f.classes ++ [{ dim := plusOne c.dimM1, sub := c.sub.toNat, master := none, books := [] }] }
          err := none }))

/-- `decode_range` and `decode_xlist` (44_floor1.md R253, R254). -/
def floorRangeAndXs (ff : FloorFields) (p : Part FloorConfig) : Part FloorConfig :=
  p.next fun r f =>
    let xs := [0, powerOfTwo ff.rangebits] ++ ff.xs
    { rd := (r.skips [2, 4]).skipEach ff.rangebits.toNat ff.xs.length
      val := { f with
        multiplier := plusOne ff.multM1, rangebits := ff.rangebits.toNat, xs := xs, values := xs.length }
      err := none }

/-- `check_neighbors`: a value 0 after the first two has no low neighbor (44_floor1.md R258). -/
def floorNeighborCheck (p : Part FloorConfig) : Part FloorConfig :=
  p.next fun r f => { rd := r, val := f, err := checkThat ((f.xs.drop 2).all (fun x => x != 0)) .floorNeighbor }

/-- `decode_floor` (44_floor1.md R250). -/
def decodeFloor (nBooks : Nat) (ff : FloorFields) (r : Reader) : Part FloorConfig :=
  let p : Part FloorConfig := { rd := r.skip 16, val := .fresh, err := none }
  floorNeighborCheck
    (floorRangeAndXs ff (ff.classes.foldl (floorClass nBooks) (floorPartClasses ff.partClass p)))

/-- FLOOR1 (44_floor1.md R250). -/
def execFloor1 (ff : FloorFields) (s : State) : Host.Outcome State Fault Refusal :=
  let p := decodeFloor s.nCodebooks ff s.reader
  let t := { s.withReader p.rd with floors := s.floors ++ [p.val] }
  match p.err with
  | some c => abort t c s.floors.length
  | none => .next { t with seq := if s.floors.length + 1 < s.nFloors then .floor else .count .residue }

/-! ### Packet payload (44_floor1.md R255, R257) -/

/-- The mapping of the frame under decode (46_audio_packet.md R302). -/
def State.frameMapping (s : State) : Option MappingConfig :=
  match s.modes[s.frame.mode]? with
  | none => none
  | some m => s.mappings[m.mapping]?

/-- The floor of a channel: `FL[M.sub_floor[M.mux[ch]]]` (46_audio_packet.md R302). -/
def State.channelFloor (s : State) (ch : Nat) : Option FloorConfig :=
  match s.frameMapping with
  | none => none
  | some m =>
    match m.mux[ch]? with
    | none => none
    | some sm =>
      match m.subFloor[sm]? with
      | none => none
      | some f => s.floors[f]?

/-- The channel whose floor payload is under decode. -/
def State.curChannel (s : State) : Nat :=
  match s.seq with
  | .floorPayload ch => ch
  | _ => 0

/-- Where the sequencer goes for channel `ch`: its floor payload, or the curves after the last channel
(46_audio_packet.md R302). -/
def State.floorSeq (s : State) (ch : Nat) : Seq := if ch < s.cfg.channels then .floorPayload ch else .curves

/-- FLOOR1_PAYLOAD_UNUSED (44_floor1.md R255). -/
def execFloor1PayloadUnused (s : State) : Host.Outcome State Fault Refusal :=
  .next { (s.skips [1]).markFloor s.curChannel true with seq := s.floorSeq (s.curChannel + 1) }

/-- The Y values of `k` class slots: `cval` is peeled off `bits` at a time, low bits first (44_floor1.md R257). -/
def floorSlots (books : List Codebook) (c : FloorClass) : Nat → Nat → Reader → Got (List Nat)
  | 0, _, r => .ok [] r
  | k + 1, cval, r =>
    match c.books[cval % 2 ^ c.sub]? with
    | none => .stuck .bufferBounds
    | some none => (floorSlots books c k (cval / 2 ^ c.sub) r).bind fun ys r => .ok (0 :: ys) r
    | some (some b) =>
      (huffDecode books b r).bind fun y r =>
        (floorSlots books c k (cval / 2 ^ c.sub) r).bind fun ys r => .ok (y :: ys) r

/-- The class value: a codeword of the masterbook, or 0 without subclass bits (44_floor1.md R257). -/
def floorClassValue (books : List Codebook) (c : FloorClass) (r : Reader) : Got Nat :=
  if c.sub = 0 then .ok 0 r
  else
    match c.master with
    | none => .stuck .configAbsent
    | some b => huffDecode books b r

/-- The Y values of the partitions, in partition order (44_floor1.md R257). -/
def floorPartitions (books : List Codebook) (f : FloorConfig) : List Nat → Reader → Got (List Nat)
  | [], r => .ok [] r
  | c :: cs, r =>
    match f.classes[c]? with
    | none => .stuck .configAbsent
    | some cls =>
      (floorClassValue books cls r).bind fun cval r =>
        (floorSlots books cls cls.dim cval r).bind fun ys r =>
          (floorPartitions books f cs r).bind fun more r => .ok (ys ++ more) r

/-- FLOOR1_PAYLOAD_PRESENT (44_floor1.md R255, R257): the baseline values, then the codewords. -/
def execFloor1PayloadPresent (y0 y1 : Nat) (s : State) : Host.Outcome State Fault Refusal :=
  match s.channelFloor s.curChannel with
  | none => .fault .configAbsent
  | some f =>
    let w := floorYWidth (floorRange f.multiplier)
    let r := s.reader.skips [1, w, w]
    (floorPartitions s.codebooks f f.partClass r).finish (s.markFloor s.curChannel false) fun ys t =>
      .next { t with
        frame := { t.frame with floorY := t.frame.floorY.set s.curChannel ([y0, y1] ++ ys) }
        seq := s.floorSeq (s.curChannel + 1) }

/-! ### Step 2 (44_floor1.md R258 to R261) -/

/-- Of two candidate indices, keep the earlier unless the later is strictly better (44_floor1.md R258: the
smallest index among equal X values). -/
def better (lt : Nat → Nat → Bool) (xs : List Nat) (best : Option Nat) (n : Nat) : Option Nat :=
  match best with
  | none => some n
  | some b => if lt (xs.getD b 0) (xs.getD n 0) then some n else some b

/-- `low_neighbor(X, j)` (44_floor1.md R258). -/
def lowNeighbor (xs : List Nat) (j : Nat) : Option Nat :=
  ((List.range j).filter (fun n => decide (xs.getD n 0 < xs.getD j 0))).foldl
    (better (fun a b => decide (a < b)) xs) none

/-- `high_neighbor(X, j)` (44_floor1.md R258). -/
def highNeighbor (xs : List Nat) (j : Nat) : Option Nat :=
  ((List.range j).filter (fun n => decide (xs.getD j 0 < xs.getD n 0))).foldl
    (better (fun a b => decide (b < a)) xs) none

/-- `render_point` (44_floor1.md R259). -/
def renderPoint (x0 : Nat) (y0 : Int) (x1 : Nat) (y1 : Int) (x : Nat) : Int :=
  let dy := y1 - y0
  let adx : Int := (x1 : Int) - x0
  let off := Int.tdiv ((dy.natAbs : Int) * ((x : Int) - x0)) adx
  if dy < 0 then y0 - off else y0 + off

/-- The final value of a used point from its raw value `v > 0`, the range and the prediction
(44_floor1.md R260). -/
def step2Value (range : Nat) (pred : Int) (v : Nat) : Int :=
  let highroom := (range : Int) - pred
  let lowroom := pred
  let room := if highroom < lowroom then 2 * highroom else 2 * lowroom
  if room ≤ (v : Int) then
    if lowroom < highroom then (v : Int) - lowroom + pred else pred - v + highroom - 1
  else if v % 2 = 1 then pred - (((v + 1) / 2 : Nat) : Int)
  else pred + ((v / 2 : Nat) : Int)

/-- The loop of step 2 from point `j` on (44_floor1.md R260, R261): the final values and used flags so far. -/
def step2Loop (range : Nat) (xs : List Nat) : List Nat → Nat → List Int → List Bool → Option (List Int × List Bool)
  | [], _, fin, used => some (fin, used)
  | v :: vs, j, fin, used =>
    match lowNeighbor xs j, highNeighbor xs j with
    | some lo, some hi =>
      let pred := renderPoint (xs.getD lo 0) (fin.getD lo 0) (xs.getD hi 0) (fin.getD hi 0) (xs.getD j 0)
      if v = 0 then step2Loop range xs vs (j + 1) (fin ++ [pred]) (used ++ [false])
      else
        step2Loop range xs vs (j + 1) (fin ++ [step2Value range pred v])
          (((used.set lo true).set hi true) ++ [true])
    | _, _ => none

/-- `floor_step2` (44_floor1.md R260): nothing when a point has no neighbor, which the setup check excludes. -/
def floorStep2 (f : FloorConfig) (y : List Nat) : Option (List Int × List Bool) :=
  match y with
  | y0 :: y1 :: ys => step2Loop (floorRange f.multiplier) f.xs ys 2 [(y0 : Int), (y1 : Int)] [true, true]
  | _ => none

/-! ### The curve (44_floor1.md R262 to R264) -/

/-- A floor point: its X, final Y and used flag. -/
structure FloorPoint where
  x : Nat
  y : Int
  used : Bool
  deriving DecidableEq, Repr, Inhabited

/-- Insert a point of a later construction index behind every point of the same X (44_floor1.md R262). -/
def insertPoint (p : FloorPoint) : List FloorPoint → List FloorPoint
  | [] => [p]
  | q :: qs => if p.x < q.x then p :: q :: qs else q :: insertPoint p qs

/-- The points in construction order. -/
def floorPoints : List Nat → List Int → List Bool → List FloorPoint
  | x :: xs, y :: ys, u :: us => { x := x, y := y, used := u } :: floorPoints xs ys us
  | _, _, _ => []

/-- The sort by (X, construction index) (44_floor1.md R262). -/
def sortPoints (ps : List FloorPoint) : List FloorPoint := ps.foldl (fun acc p => insertPoint p acc) []

/-- The values of `render_line` after its first (44_floor1.md R263). -/
def lineTail (adx ady base sy : Int) : Nat → Int → Int → List Int
  | 0, _, _ => []
  | k + 1, y, err =>
    if adx ≤ err + ady then (y + sy) :: lineTail adx ady base sy k (y + sy) (err + ady - adx)
    else (y + base) :: lineTail adx ady base sy k (y + base) (err + ady)

/-- The values `render_line` writes at `x0 .. x1 - 1` (44_floor1.md R263); a segment of no width draws nothing. -/
def lineSegment (x0 : Nat) (y0 : Int) (x1 : Nat) (y1 : Int) : List Int :=
  if x1 ≤ x0 then []
  else
    let adx : Int := (x1 : Int) - x0
    let dy := y1 - y0
    let base := Int.tdiv dy adx
    let sy := if dy < 0 then base - 1 else base + 1
    let ady := (dy.natAbs : Int) - (base.natAbs : Int) * adx
    y0 :: lineTail adx ady base sy (x1 - x0 - 1) y0 0

/-- Write a segment's values from `x0` on; a value at or past the limit, the curve's length, is not written
(44_floor1.md R263). -/
def writeSegment (curve : List Int) (x0 : Nat) (seg : List Int) : List Int :=
  curve.take x0 ++ seg.take (curve.length - x0) ++ curve.drop (x0 + seg.length)

/-- `render_line` (44_floor1.md R263). -/
def renderLine (curve : List Int) (x0 : Nat) (y0 : Int) (x1 : Nat) (y1 : Int) : List Int :=
  writeSegment curve x0 (lineSegment x0 y0 x1 y1)

/-- The curve under construction and its last point (44_floor1.md R264). -/
structure CurveState where
  curve : List Int
  x : Nat
  y : Int
  deriving DecidableEq, Repr

/-- One sorted point: a used point ends a segment (44_floor1.md R264). -/
def curveStep (m : Nat) (c : CurveState) (p : FloorPoint) : CurveState :=
  if p.used then { curve := renderLine c.curve c.x c.y p.x (p.y * m), x := p.x, y := p.y * m } else c

/-- `floor_curve` over the sorted points, `h` samples long (44_floor1.md R264). When no point after the first is
used, the last segment starts at `hx = hy = 0`, the start values of the rule. -/
def floorCurve (m h : Nat) (sorted : List FloorPoint) : List Int :=
  match sorted with
  | [] => List.replicate h 0
  | p0 :: ps =>
    let c := ps.foldl (curveStep m) { curve := List.replicate h 0, x := 0, y := p0.y * m }
    let hy := if ps.any FloorPoint.used then c.y else 0
    if c.x < h then renderLine c.curve c.x hy h hy else c.curve

/-- Whether every amplitude of a curve is one of the table's 256 indices (44_floor1.md R266). -/
def amplitudesOk (curve : List Int) : Bool := curve.all (fun a => decide (0 ≤ a ∧ a ≤ 255))

/-- The inverse-dB mapping of a curve (44_floor1.md R265, R266); nothing when a value lies outside the table. -/
def invDbMap (table : List F32) : List Int → Option (List F32)
  | [] => some []
  | a :: rest =>
    match table[a.toNat]?, invDbMap table rest with
    | some f, some fs => some (f :: fs)
    | _, _ => none

/-- What `floor_vector` gives for one channel (44_floor1.md R266): the final Y values, used flags and curve of steps 2 and
after, and the vector; or an amplitude of the curve has no table entry. -/
inductive FloorResult where
  | ok (finalY : List Int) (used : List Bool) (curve : List Int) (vec : List F32)
  | amplitude (finalY : List Int) (used : List Bool) (curve : List Int)
  | stuck (f : Fault)
  deriving DecidableEq, Repr

/-- `floor_vector` of a channel whose floor is used (44_floor1.md R266). -/
def floorVector (params : Params) (h : Nat) (f : FloorConfig) (y : List Nat) : FloorResult :=
  match floorStep2 f y with
  | none => .stuck .bufferBounds
  | some fu =>
    let curve := floorCurve f.multiplier h (sortPoints (floorPoints f.xs fu.1 fu.2))
    if amplitudesOk curve then
      match invDbMap params.invDb curve with
      | none => .stuck .bufferBounds
      | some vec => .ok fu.1 fu.2 curve vec
    else .amplitude fu.1 fu.2 curve

/-- What `floor_step2` and `floor_curve` write for channel `ch` (44_floor1.md R260, R264): the final Y values, the used flags
of the floor's points, and the curve. -/
def State.storeCurve (s : State) (ch : Nat) (finalY : List Int) (used : List Bool) (curve : List Int) : State :=
  { s with
    floorUsed := s.floorUsed.set ch (overwrite used (s.floorUsed.getD ch []))
    frame := { s.frame with
      floorFinalY := s.frame.floorFinalY.set ch finalY
      floorInt := s.frame.floorInt.set ch curve } }

/-- Write `FLOOR[ch]` (44_floor1.md R266). -/
def State.storeFloor (s : State) (ch : Nat) (vec : List F32) : State :=
  { s with frame := { s.frame with floor := s.frame.floor.set ch vec } }

/-- `floor_vector` of channel `ch` (44_floor1.md R266). The amplitude check comes after step 2 and the curve are written; what
`FLOOR[ch]` holds after it fails is log 8. -/
def channelVector (ch : Nat) (s : State) : Sum State (Host.Outcome State Fault Refusal) :=
  if s.floorUnused.getD ch false then .inl (s.storeFloor ch (List.replicate (s.frame.n / 2) F32.zero))
  else
    match s.channelFloor ch with
    | none => .inr (.fault .configAbsent)
    | some f =>
      match floorVector s.params (s.frame.n / 2) f (s.frame.floorY.getD ch []) with
      | .stuck e => .inr (.fault e)
      | .amplitude finalY used curve => .inr (abort (s.storeCurve ch finalY used curve) .floorAmplitude ch)
      | .ok finalY used curve vec => .inl ((s.storeCurve ch finalY used curve).storeFloor ch vec)

/-- The floor vectors of the channels `chs`, in order (44_floor1.md R266, 46_audio_packet.md R302). -/
def floorVectors : List Nat → State → Sum State (Host.Outcome State Fault Refusal)
  | [], s => .inl s
  | ch :: chs, s =>
    match channelVector ch s with
    | .inr o => .inr o
    | .inl t => floorVectors chs t

end Sys2Proof.Machine
end

