-- ==== Sys2Proof/Machine/Residue.lean ====
section
/-! DEFINITION. Residue types 0, 1 and 2 (45_residue.md): the setup units and the packet payload units. A value past
the end of a vector is never written: the write raises first (45_residue.md R287, R288). -/

namespace Sys2Proof.Machine

open Sys2Proof

/-! ### Setup (45_residue.md R280 to R282) -/

/-- A residue of which only the type is read. -/
def ResidueConfig.fresh (t : ResType) : ResidueConfig :=
  { type := t, begin := 0, stop := 0, psize := 0, classifications := 0, classbook := 0, cascade := [], books := [] }

/-- One cascade field (45_residue.md R281). -/
def residueCascade (p : Part ResidueConfig) (c : CascadeFields) : Part ResidueConfig :=
  p.next fun r v =>
    { rd := if c.high.isSome then r.skips [3, 1, 5] else r.skips [3, 1]
      val := { v with cascade := v.cascade ++ [cascadeValue c] }
      err := none }

/-- Append a book to the row of the classification under decode, the last of the list. -/
def pushBook (b : Option Nat) (v : ResidueConfig) : ResidueConfig :=
  { v with books := modifyAt v.books (v.books.length - 1) (fun row => row ++ [b]) }

/-- The pass books of one classification, one pass of `passes` at a time: an index is read for a set cascade bit,
and a cleared bit stores -1 (45_residue.md R282). -/
def residueRow (nBooks cascade : Nat) : List Nat → List (BitVec 8) → Part ResidueConfig → Part ResidueConfig
  | [], _, p => p
  | pass :: passes, bs, p =>
    match cascade.testBit pass, bs with
    | true, b :: more =>
      residueRow nBooks cascade passes more
        (p.field 8 (if b.toNat < nBooks then pushBook (some b.toNat) else id)
          (checkThat (decide (b.toNat < nBooks)) .resBook))
    | _, _ => residueRow nBooks cascade passes bs (p.next fun r v => { rd := r, val := pushBook none v, err := none })

/-- `decode_books` (45_residue.md R282). -/
def residueBooks (nBooks : Nat) : List Nat → List (List (BitVec 8)) → Part ResidueConfig → Part ResidueConfig
  | [], _, p => p
  | c :: cs, rows, p =>
    residueBooks nBooks cs rows.tail
      (residueRow nBooks c (List.range 8) (rows.headD [])
        (p.next fun r v => { rd := r, val := { v with books := v.books ++ [[]] }, err := none }))

/-- The fields of a residue up to its classbook (45_residue.md R280). -/
def residueHead (nBooks : Nat) (ff : ResidueFields) (p : Part ResidueConfig) : Part ResidueConfig :=
  (p.next fun r v =>
      { rd := r.skips [24, 24, 24, 6]
        val := { v with
          begin := ff.begin.toNat
          stop := ff.stop.toNat
          psize := plusOne ff.psizeM1
          classifications := plusOne ff.classificationsM1 }
        err := none }).field 8
    (if ff.classbook.toNat < nBooks then fun v => { v with classbook := ff.classbook.toNat } else id)
    (checkThat (decide (ff.classbook.toNat < nBooks)) .resBook)

/-- `decode_residue` (45_residue.md R280). -/
def decodeResidue (t : ResType) (nBooks : Nat) (ff : ResidueFields) (r : Reader) : Part ResidueConfig :=
  let p : Part ResidueConfig := { rd := r.skip 16, val := .fresh t, err := none }
  residueBooks nBooks (ff.cascade.map cascadeValue) ff.books
    (ff.cascade.foldl residueCascade (residueHead nBooks ff p))

/-- The setup unit of a residue of type `t` (45_residue.md R280). -/
def residueSetup (t : ResType) (ff : ResidueFields) (s : State) : Host.Outcome State Fault Refusal :=
  let p := decodeResidue t s.nCodebooks ff s.reader
  let u := { s.withReader p.rd with residues := s.residues ++ [p.val] }
  match p.err with
  | some c => abort u c s.residues.length
  | none => .next { u with seq := if s.residues.length + 1 < s.nResidues then .residue else .count .mapping }

/-- RES0 (45_residue.md R280). -/
def execRes0 (ff : ResidueFields) (s : State) : Host.Outcome State Fault Refusal := residueSetup .t0 ff s

/-- RES1 (45_residue.md R280). -/
def execRes1 (ff : ResidueFields) (s : State) : Host.Outcome State Fault Refusal := residueSetup .t1 ff s

/-- RES2 (45_residue.md R280). -/
def execRes2 (ff : ResidueFields) (s : State) : Host.Outcome State Fault Refusal := residueSetup .t2 ff s

/-! ### Vectors under accumulation -/

/-- `v[idx] <- fadd(v[idx], x)`; nothing when `idx` is at or past the vector's end (45_residue.md R287). -/
def addAt (v : List F32) (idx : Nat) (x : F32) : Option (List F32) :=
  match v[idx]? with
  | none => none
  | some a => some (v.set idx (F32.add a x))

/-- Add a decoded vector at `idx`, `idx + step`, `idx + 2 * step`, ... in order. -/
def addStrided (step : Nat) : List F32 → Nat → List F32 → Option (List F32)
  | [], _, v => some v
  | x :: xs, idx, v =>
    match addAt v idx x with
    | none => none
    | some v' => addStrided step xs (idx + step) v'

/-- Add a decoded vector, or raise E_RES_OVERRUN for residue `res` (45_residue.md R287, R288). -/
def addVector (res step : Nat) (e : List F32) (idx : Nat) (v : List F32) (r : Reader) : Got (List F32) :=
  match addStrided step e idx v with
  | none => .bad .resOverrun res r
  | some v' => .ok v' r

/-- The loop of a type-0 partition: `k` more vectors, the next one at `idx`, stride `step` (45_residue.md R287). -/
def partition0Loop (books : List Codebook) (res book step : Nat) : Nat → Nat → List F32 → Reader → Got (List F32)
  | 0, _, v, r => .ok v r
  | k + 1, idx, v, r =>
    (vqDecode books book r).bind fun e r =>
      (addVector res step e idx v r).bind fun v r => partition0Loop books res book step k (idx + 1) v r

/-- A type-0 partition (45_residue.md R287). -/
def partition0 (books : List Codebook) (res book off psize : Nat) (v : List F32) (r : Reader) : Got (List F32) :=
  (vqCheck books book r).bind fun b r =>
    partition0Loop books res book (psize / b.dims) (psize / b.dims) off v r

/-- The loop of a type-1 partition at offset `i`; every pass advances by the dimension, so `fuel = psize` passes
are enough (45_residue.md R288). -/
def partition1Loop (books : List Codebook) (res book off psize : Nat) :
    Nat → Nat → List F32 → Reader → Got (List F32)
  | 0, _, v, r => .ok v r
  | fuel + 1, i, v, r =>
    if psize ≤ i then .ok v r
    else
      (vqDecode books book r).bind fun e r =>
        (addVector res 1 e (off + i) v r).bind fun v r =>
          partition1Loop books res book off psize fuel (i + e.length) v r

/-- A type-1 partition (45_residue.md R288). -/
def partition1 (books : List Codebook) (res book off psize : Nat) (v : List F32) (r : Reader) : Got (List F32) :=
  (vqCheck books book r).bind fun _ r => partition1Loop books res book off psize psize 0 v r

/-- A partition; type 2 uses type 1 (45_residue.md R286, R289). -/
def partition (t : ResType) (books : List Codebook) (res book off psize : Nat) (v : List F32) (r : Reader) :
    Got (List F32) :=
  match t with
  | .t0 => partition0 books res book off psize v r
  | .t1 => partition1 books res book off psize v r
  | .t2 => partition1 books res book off psize v r

/-! ### Classifications and passes (45_residue.md R285, R286) -/

/-- The `n` digits of a codeword value in radix `radix`, most significant first, in front of `acc`
(45_residue.md R285). -/
def classDigits (radix : Nat) : Nat → Nat → List Nat → List Nat
  | 0, _, acc => acc
  | n + 1, temp, acc => classDigits radix n (temp / radix) (temp % radix :: acc)

/-- The vectors under accumulation and the classification digits, one list per channel position. -/
structure ResWork where
  out : List (List F32)
  classif : List (List Nat)
  deriving DecidableEq, Repr

/-- `classify` for channel position `k` (45_residue.md R285): the digits of a group follow the earlier ones. -/
def classify (books : List Codebook) (c : ResidueConfig) (cpc k : Nat) (w : ResWork) (r : Reader) : Got ResWork :=
  (huffDecode books c.classbook r).bind fun temp r =>
    .ok { w with classif := modifyAt w.classif k (fun ds => ds ++ classDigits c.classifications cpc temp []) } r

/-- `classify` for every channel position to decode (45_residue.md R286). -/
def classifyAll (books : List Codebook) (c : ResidueConfig) (cpc : Nat) : List Nat → ResWork → Reader → Got ResWork
  | [], w, r => .ok w r
  | k :: ks, w, r => (classify books c cpc k w r).bind fun w r => classifyAll books c cpc ks w r

/-- The book of a partition in a pass: `R.books[CLASSIF[k][pc]][pass]` (45_residue.md R286); the outer `none` is an
index outside a table. -/
def passBook (c : ResidueConfig) (w : ResWork) (pass pc k : Nat) : Option (Option Nat) :=
  match w.classif[k]? with
  | none => none
  | some ds =>
    match ds[pc]? with
    | none => none
    | some d =>
      match c.books[d]? with
      | none => none
      | some row => row[pass]?

/-- Partition `pc` of channel position `k` in a pass (45_residue.md R286). -/
def decodePartition (books : List Codebook) (res : Nat) (c : ResidueConfig) (pass pc k : Nat) (w : ResWork)
    (r : Reader) : Got ResWork :=
  match passBook c w pass pc k, w.out[k]? with
  | some none, some _ => .ok w r
  | some (some b), some v =>
    (partition c.type books res b (c.begin + pc * c.psize) c.psize v r).bind fun v r =>
      .ok { w with out := w.out.set k v } r
  | _, _ => .stuck .bufferBounds

/-- Partition `pc` of every channel position to decode (45_residue.md R286). -/
def decodePartitions (books : List Codebook) (res : Nat) (c : ResidueConfig) (pass pc : Nat) :
    List Nat → ResWork → Reader → Got ResWork
  | [], w, r => .ok w r
  | k :: ks, w, r =>
    (decodePartition books res c pass pc k w r).bind fun w r => decodePartitions books res c pass pc ks w r

/-- One pass from partition `pc` on, `n` partitions left; the group codewords come first in pass 0
(45_residue.md R286). -/
def residuePass (books : List Codebook) (res : Nat) (c : ResidueConfig) (cpc : Nat) (act : List Nat) (pass : Nat) :
    Nat → Nat → ResWork → Reader → Got ResWork
  | 0, _, w, r => .ok w r
  | n + 1, pc, w, r =>
    (if pass = 0 ∧ pc % cpc = 0 then classifyAll books c cpc act w r else .ok w r).bind fun w r =>
      (decodePartitions books res c pass pc act w r).bind fun w r =>
        residuePass books res c cpc act pass n (pc + 1) w r

/-- The passes of `ps`, in order (45_residue.md R286). -/
def residuePassesFrom (books : List Codebook) (res : Nat) (c : ResidueConfig) (cpc : Nat) (act : List Nat)
    (nparts : Nat) : List Nat → ResWork → Reader → Got ResWork
  | [], w, r => .ok w r
  | p :: ps, w, r =>
    (residuePass books res c cpc act p nparts 0 w r).bind fun w r =>
      residuePassesFrom books res c cpc act nparts ps w r

/-- `residue_passes` over the channel positions `act` to decode (45_residue.md R286): the classbook's dimension is
checked before the first read. -/
def residuePasses (books : List Codebook) (res : Nat) (c : ResidueConfig) (act : List Nat) (nparts : Nat)
    (out : List (List F32)) (r : Reader) : Got ResWork :=
  match books[c.classbook]? with
  | none => .stuck .configAbsent
  | some cb =>
    if cb.dims = 0 then .bad .cbZeroDim c.classbook r
    else
      residuePassesFrom books res c cb.dims act nparts (List.range 8)
        { out := out, classif := List.replicate out.length [] } r

/-! ### The packet payload (45_residue.md R284, R289, R290) -/

/-- The working length: `FR_N / 2`, times the channel count for type 2 (45_residue.md R284). -/
def residueActual (t : ResType) (h c : Nat) : Nat :=
  match t with
  | .t0 => h
  | .t1 => h
  | .t2 => h * c

/-- The number of partitions; a negative length is 0 (45_residue.md R284). -/
def residueParts (c : ResidueConfig) (actual : Nat) : Nat := (min c.stop actual - c.begin) / c.psize

/-- The channel positions whose "do not decode" flag is clear (45_residue.md R284). -/
def activePositions (dnd : List Bool) : List Nat := (List.range dnd.length).filter (fun k => dnd.getD k false == false)

/-- De-interleave: element `i` of channel position `k` of `c` is `V[i*c + k]` (45_residue.md R289). -/
def deinterleave (v : List F32) (h c k : Nat) : List F32 :=
  (List.range h).map (fun i => v.getD (i * c + k) F32.zero)

/-- `residue_decode` (45_residue.md R284): the residue vectors of the channels of a submap, by position, and the
classification digits. -/
def residueDecode (t : ResType) (books : List Codebook) (res : Nat) (rc : ResidueConfig) (h : Nat) (dnd : List Bool)
    (r : Reader) : Got ResWork :=
  let c := { rc with type := t }
  let zeros := dnd.map (fun _ => List.replicate h F32.zero)
  let nparts := residueParts c (residueActual t h dnd.length)
  if nparts = 0 ∨ activePositions dnd = [] then .ok { out := zeros, classif := [] } r
  else
    match t with
    | .t0 => residuePasses books res c (activePositions dnd) nparts zeros r
    | .t1 => residuePasses books res c (activePositions dnd) nparts zeros r
    | .t2 =>
      (residuePasses books res c [0] nparts [List.replicate (h * dnd.length) F32.zero] r).bind fun w r =>
        .ok
          { w with
            out := (List.range dnd.length).map (fun k =>
              if dnd.getD k false then List.replicate h F32.zero
              else deinterleave (w.out.headD []) h dnd.length k) } r

/-- The channels of submap `sm`, in channel order (46_audio_packet.md R304). -/
def MappingConfig.submapChannels (m : MappingConfig) (channels sm : Nat) : List Nat :=
  (List.range channels).filter (fun ch => m.mux[ch]? == some sm)

/-- The submap whose residue payload is under decode. -/
def State.curSubmap (s : State) : Nat :=
  match s.seq with
  | .residuePayload sm => sm
  | _ => 0

/-- Where the sequencer goes for submaps from `sm` on: the residue payload of the first one that a channel selects,
or the decoupling when there is none (46_audio_packet.md R304). -/
def MappingConfig.residueSeq (m : MappingConfig) (channels sm : Nat) : Seq :=
  match (List.range m.submaps).find? (fun k => decide (sm ≤ k) && !(m.submapChannels channels k).isEmpty) with
  | some k => .residuePayload k
  | none => .couple

/-- Store vectors as the rows named by `chs`, in order. -/
def storeRows (rows : List (List F32)) : List Nat → List (List F32) → List (List F32)
  | ch :: chs, v :: vs => storeRows (rows.set ch v) chs vs
  | _, _ => rows

/-- The number of the residue of submap `sm`, and its entry (46_audio_packet.md R304). -/
def State.submapResidue (s : State) (m : MappingConfig) (sm : Nat) : Option (Nat × ResidueConfig) :=
  match m.subResidue[sm]? with
  | none => none
  | some res =>
    match s.residues[res]? with
    | none => none
    | some c => some (res, c)

/-- The residue payload of the submap under decode, as type `t` (46_audio_packet.md R304, 45_residue.md R284). -/
def residuePayload (t : ResType) (s : State) : Host.Outcome State Fault Refusal :=
  match s.frameMapping with
  | none => .fault .configAbsent
  | some m =>
    match s.submapResidue m s.curSubmap with
    | none => .fault .configAbsent
    | some rc =>
      let chs := m.submapChannels s.cfg.channels s.curSubmap
      let dnd := chs.map (fun ch => s.noResidue.getD ch false)
      (residueDecode t s.codebooks rc.1 rc.2 (s.frame.n / 2) dnd s.reader).finish s fun w u =>
        .next { u with
          frame := { u.frame with residue := storeRows u.frame.residue chs w.out, classif := w.classif }
          seq := m.residueSeq s.cfg.channels (s.curSubmap + 1) }

/-- RES0_PAYLOAD (45_residue.md R287). -/
def execRes0Payload (s : State) : Host.Outcome State Fault Refusal := residuePayload .t0 s

/-- RES1_PAYLOAD (45_residue.md R288). -/
def execRes1Payload (s : State) : Host.Outcome State Fault Refusal := residuePayload .t1 s

/-- RES2_PAYLOAD (45_residue.md R289). -/
def execRes2Payload (s : State) : Host.Outcome State Fault Refusal := residuePayload .t2 s

end Sys2Proof.Machine
end

