-- ==== Sys2Proof/Machine/Audio.lean ====
section
/-! DEFINITION. Audio packets (46_audio_packet.md): the packet header and the window flags, and the internal
operations that read no bits: the floor curves and the propagation, the decoupling and the spectrum. -/

namespace Sys2Proof.Machine

open Sys2Proof

/-! ### Packet header (46_audio_packet.md R300, R301) -/

/-- The frame buffers at the start of an audio packet: every per-channel buffer present and empty. -/
def Frame.start (channels mode n : Nat) (blockflag : Bool) : Frame :=
  { Frame.empty with
    mode := mode
    blockflag := blockflag
    n := n
    floorY := List.replicate channels []
    floorFinalY := List.replicate channels []
    floorInt := List.replicate channels []
    floor := List.replicate channels []
    residue := List.replicate channels []
    spectrum := List.replicate channels []
    time := List.replicate channels []
    outf := List.replicate channels [] }

/-- AUDIO_PACKET: the type bit and the mode number (46_audio_packet.md R300), then the block size; a long block goes
on with its window flags (46_audio_packet.md R301). The frame starts, and its flags are cleared, when both checks have passed:
no rule places that, so it is the model's choice (log 29, DESIGN CHOICE); after E_AUDIO_TYPE or E_AUDIO_MODE
`NO_RESIDUE`, `FLOOR_UNUSED` and `FLOOR_USED` hold what the frame before left (10_state.md R26, 60_exceptions.md R351). -/
def execAudioPacket (mode : Nat) (s : State) : Host.Outcome State Fault Refusal :=
  let t := s.skips [1, modeWidth s.nModes]
  if s.nModes ≤ mode then abort t .audioMode mode
  else
    match s.modes[mode]? with
    | none => .fault .configAbsent
    | some m =>
      let u :=
        { t with
          frame := Frame.start t.cfg.channels mode (if m.blockflag then t.cfg.bs1 else t.cfg.bs0) m.blockflag
        }.clearFrameFlags
      .next { u with seq := if m.blockflag then .window else u.floorSeq 0 }

/-- WINDOW_FLAGS: the two flags of a long block (46_audio_packet.md R301). -/
def execWindowFlags (prev next : Bool) (s : State) : Host.Outcome State Fault Refusal :=
  let t := s.skips [1, 1]
  .next { t with
    frame := { t.frame with n := t.cfg.bs1, prevwin := prev, nextwin := next }
    seq := t.floorSeq 0 }

/-! ### Floors and propagation (46_audio_packet.md R302, R303) -/

/-- The coupling steps of a mapping, in increasing order. -/
def MappingConfig.steps (m : MappingConfig) : List (Nat × Nat) := m.mag.zip m.ang

/-- The second loop of `audio_floors` and `audio_propagate` (46_audio_packet.md R302, R303). -/
def floorCurves (s : State) : Host.Outcome State Fault Refusal :=
  match s.frameMapping with
  | none => .fault .configAbsent
  | some m =>
    match floorVectors (List.range s.cfg.channels) s with
    | .inr o => o
    | .inl t =>
      .next { t with
        noResidue := propagate m.steps t.noResidue
        seq := m.residueSeq t.cfg.channels 0 }

/-! ### Decoupling and spectrum (46_audio_packet.md R305 to R307) -/

/-- `decouple(m, a)`: the new magnitude and the new angle, both from the old values (46_audio_packet.md R306). -/
def decouple (m a : F32) : F32 × F32 :=
  if m.gtZero then (if a.gtZero then (m, F32.sub m a) else (F32.add m a, m))
  else (if a.gtZero then (m, F32.add m a) else (F32.sub m a, m))

/-- One coupling step over whole vectors (46_audio_packet.md R305). -/
def decoupleStep (rows : List (List F32)) (st : Nat × Nat) : List (List F32) :=
  let m := rows.getD st.1 []
  let a := rows.getD st.2 []
  (rows.set st.1 (List.zipWith (fun x y => (decouple x y).1) m a)).set st.2
    (List.zipWith (fun x y => (decouple x y).2) m a)

/-- `audio_decouple`: the steps in reverse order (46_audio_packet.md R305). -/
def decoupleAll (steps : List (Nat × Nat)) (rows : List (List F32)) : List (List F32) :=
  steps.reverse.foldl decoupleStep rows

/-- The spectrum of one channel (46_audio_packet.md R307). -/
def spectrumOf (h : Nat) (unused : Bool) (floor residue : List F32) : List F32 :=
  if unused then List.replicate h F32.zero else List.zipWith F32.mul floor residue

/-- `audio_spectrum` (46_audio_packet.md R307). -/
def spectra (h channels : Nat) (unused : List Bool) (floors residues : List (List F32)) : List (List F32) :=
  (List.range channels).map (fun ch =>
    spectrumOf h (unused.getD ch false) (floors.getD ch []) (residues.getD ch []))

/-- `audio_decouple` and `audio_spectrum` (46_audio_packet.md R305, R307). -/
def coupleOp (s : State) : Host.Outcome State Fault Refusal :=
  match s.frameMapping with
  | none => .fault .configAbsent
  | some m =>
    let rows := decoupleAll m.steps s.frame.residue
    .next { s with
      frame := { s.frame with
        residue := rows
        spectrum := spectra (s.frame.n / 2) s.cfg.channels s.floorUnused s.frame.floor rows }
      seq := .synth }

end Sys2Proof.Machine
end

