-- ==== Sys2Proof/Machine/Trig.lean ====
section
/-! DEFINITION. Fixed-point sine and cosine for the default transform and window (47_synthesis.md R320, R323). A value
`v` at precision `w` stands for `v / 2^w`. Every value here is within `trigError w` units in the last place of the
real one: the series are summed until a term is 0, and each term adds at most a few units (log 11). -/

namespace Sys2Proof

/-- The bound on the error of a value at precision `w`, in units of `2^-w` (log 11). -/
def trigError (w : Nat) : Nat := 256 * w

/-- The alternating series of `atan(1/q)`: the power `p = 2^w / q^(2k+1)`, the odd number `k`, the sum so far. -/
def atanSeries (qq : Nat) : Nat → Nat → Nat → Bool → Int → Int
  | 0, _, _, _, acc => acc
  | fuel + 1, p, k, neg, acc =>
    if p = 0 then acc
    else atanSeries qq fuel (p / qq) (k + 2) (!neg) (if neg then acc - (p / k : Nat) else acc + (p / k : Nat))

/-- `atan(1/q)` at precision `w`. -/
def atanInv (w q : Nat) : Int := atanSeries (q * q) w (2 ^ w / q) 1 false 0

/-- `pi` at precision `w`: `16 atan(1/5) - 4 atan(1/239)`. -/
def piFixed (w : Nat) : Nat := (16 * atanInv w 5 - 4 * atanInv w 239).toNat

/-- The alternating Taylor series: the term `t` of degree `k`, the square of the argument, the sum so far. -/
def taylor (w xx : Nat) : Nat → Nat → Nat → Bool → Int → Int
  | 0, _, _, _, acc => acc
  | fuel + 1, k, t, neg, acc =>
    if t = 0 then acc
    else
      taylor w xx fuel (k + 2) (((t * xx) >>> w) / ((k + 1) * (k + 2))) (!neg)
        (if neg then acc - (t : Int) else acc + (t : Int))

/-- Cosine of `x` in `0..pi/2`. -/
def cosFixed (w x : Nat) : Int := taylor w ((x * x) >>> w) w 0 (2 ^ w) false 0

/-- Sine of `x` in `0..pi/2`. -/
def sinFixed (w x : Nat) : Int := taylor w ((x * x) >>> w) w 1 x false 0

/-- The table `cos(pi * j / (2n))` for `j` in `0..n`. -/
def cosTable (w n : Nat) : List Int := (List.range (n + 1)).map (fun j => cosFixed w (piFixed w * j / (2 * n)))

/-- `cos(pi * m / (2n))` from the table of the first quadrant, by the symmetries of the cosine. -/
def cosAt (table : Array Int) (n m : Nat) : Int :=
  let a := m % (4 * n)
  if a ≤ n then table.getD a 0
  else if a ≤ 2 * n then -table.getD (2 * n - a) 0
  else if a ≤ 3 * n then -table.getD (a - 2 * n) 0
  else table.getD (4 * n - a) 0

/-- The precisions that are tried in turn. -/
def precisions : List Nat := [192, 768, 3072, 12288, 49152, 196608, 786432, 3145728, 12582912]

/-- The first answer of a function over the precisions. -/
def firstAt {α : Type} (f : Nat → Option α) : List Nat → Option α
  | [] => none
  | w :: ws =>
    match f w with
    | some a => some a
    | none => firstAt f ws

end Sys2Proof
end

