-- ==== Sys2Proof/Machine/Synth.lean ====
section
/-! DEFINITION. Inverse MDCT, windowed overlap-add, PCM output and emission (47_synthesis.md). No rule of this file
raises an error. -/

namespace Sys2Proof.Machine

open Sys2Proof

/-! ### Inverse MDCT (47_synthesis.md R320, R321) -/

/-- The signed integer `X * 2^149` of a number, and nothing for an infinity or a NaN. -/
def scaledValue : F32 → Option Int
  | .fin s m e => some (F32.scaled s m e)
  | _ => none

/-- The spectrum as exact integers, if every value is a number. -/
def scaledSpectrum : List F32 → Option (List Int)
  | [] => some []
  | x :: xs =>
    match scaledValue x, scaledSpectrum xs with
    | some v, some vs => some (v :: vs)
    | _, _ => none

/-- The sum of the magnitudes of a spectrum. -/
def magnitude (xs : List Int) : Nat := xs.foldl (fun acc x => acc + x.natAbs) 0

/-- The sum of `imdct_ref` with the cosines of a table: `k` is the index of the next value (47_synthesis.md R320). -/
def imdctSum (table : Array Int) (n i : Nat) : Nat → List Int → Int → Int
  | _, [], acc => acc
  | k, x :: xs, acc => imdctSum table n i (k + 1) xs (acc + x * cosAt table n ((2 * i + 1 + n / 2) * (2 * k + 1)))

/-- `rnd32` of the exact sum, where the bounds at precision `w` decide it (47_synthesis.md R321, log 11). -/
def imdctTry (xs : List Int) (n i w : Nat) (table : Array Int) : Option F32 :=
  let v := imdctSum table n i 0 xs 0
  let d : Int := (magnitude xs : Int) * trigError w
  F32.roundInterval (v - d) (v + d) (-(w : Int))

/-- Sample `i` of the reference transform of numbers: `rnd32` of the exact sum (47_synthesis.md R320, R321). The first
table is given; a sum that it does not decide is tried at higher precisions. -/
def imdctSample (spectrum : List F32) (xs : List Int) (n : Nat) (first : Array Int) (i : Nat) : F32 :=
  match imdctTry xs n i 192 first with
  | some y => y
  | none =>
    match firstAt (fun w => imdctTry xs n i w (cosTable w n).toArray) precisions.tail with
    | some y => y
    | none => Config.imdctFree spectrum n i

/-- The reference transform (47_synthesis.md R320). -/
def imdctReference (spectrum : List F32) (n : Nat) : List F32 :=
  match scaledSpectrum spectrum with
  | none => (List.range n).map (fun i => Config.imdctFree spectrum n i)
  | some xs =>
    let first := (cosTable 192 n).toArray
    (List.range n).map (fun i => imdctSample spectrum xs n first i)

/-- `IMDCT_IMPL` (47_synthesis.md R321): every admissible one maps an all-zero spectrum to zeros. -/
def imdct (impl : Impl) (spectrum : List F32) (n : Nat) : List F32 :=
  if spectrum.all F32.isZero then List.replicate n F32.zero
  else
    match impl with
    | .reference => imdctReference spectrum n
    | .own k => (List.range n).map (fun i => Config.imdctImpl k spectrum n i)

/-! ### Window (47_synthesis.md R322 to R324) -/

/-- The bounds of the two slopes. -/
structure WindowBounds where
  ls : Nat
  le : Nat
  ln : Nat
  rs : Nat
  re : Nat
  rn : Nat
  deriving DecidableEq, Repr

/-- `window_bounds` (47_synthesis.md R322). -/
def windowBounds (n b0 : Nat) (blockflag prevwin nextwin : Bool) : WindowBounds :=
  let shortLeft := blockflag && !prevwin
  let shortRight := blockflag && !nextwin
  { ls := if shortLeft then n / 4 - b0 / 4 else 0
    le := if shortLeft then n / 4 + b0 / 4 else n / 2
    ln := if shortLeft then b0 / 2 else n / 2
    rs := if shortRight then 3 * n / 4 - b0 / 4 else n / 2
    re := if shortRight then 3 * n / 4 + b0 / 4 else n
    rn := if shortRight then b0 / 2 else n / 2 }

/-- `sin(pi/2 * sin^2((j + 1/2)/L * pi/2))` at precision `w`, through `sin^2 x = (1 - cos 2x)/2`
(47_synthesis.md R323). -/
def slopeFixed (w l j : Nat) : Int :=
  let p := piFixed w
  let angle := p * (2 * j + 1) / (2 * l)
  let c := if 2 * j + 1 ≤ l then cosFixed w angle else -cosFixed w (p - angle)
  sinFixed w ((p * (2 ^ w - c).toNat) >>> (w + 2))

/-- `rnd32` of the exact slope value, where the bounds at precision `w` decide it (log 12). -/
def slopeTry (l j w : Nat) : Option F32 :=
  F32.roundInterval (slopeFixed w l j - trigError w) (slopeFixed w l j + trigError w) (149 - (w : Int))

/-- `WIN_IMPL(L, j)` (47_synthesis.md R323). -/
def windowSlope (impl : Impl) (l j : Nat) : F32 :=
  match impl with
  | .own k => Config.winImpl k l j
  | .reference =>
    match firstAt (slopeTry l j) precisions with
    | some y => y
    | none => Config.winFree l j

/-- The window value at `i` (47_synthesis.md R323). -/
def windowAt (impl : Impl) (b : WindowBounds) (i : Nat) : F32 :=
  if i < b.ls then F32.zero
  else if i < b.le then windowSlope impl b.ln (i - b.ls)
  else if i < b.rs then F32.one
  else if i < b.re then windowSlope impl b.rn (b.re - 1 - i)
  else F32.zero

/-- The window of a frame (47_synthesis.md R323). -/
def windowOf (impl : Impl) (b : WindowBounds) (n : Nat) : List F32 := (List.range n).map (windowAt impl b)

/-! ### Overlap-add and carry (47_synthesis.md R325 to R328) -/

/-- The number of sample frames a packet gives (47_synthesis.md R327, R328). -/
def outputLength (mode : FirstPacketMode) (pn cn : Nat) : Nat :=
  if pn = 0 then (match mode with
    | .zeroQuarter => cn / 4
    | .none => 0)
  else pn / 4 + cn / 4

/-- Output sample `j` of one channel after the first packet (47_synthesis.md R325). -/
def overlapAt (pn cn : Nat) (carry time : List F32) (j : Nat) : F32 :=
  let c : Int := (cn / 4 : Nat) - (pn / 4 : Nat) + (j : Int)
  if j < pn / 2 then
    (if 0 ≤ c ∧ c < (cn / 2 : Nat) then F32.add (carry.getD j F32.zero) (time.getD c.toNat F32.zero)
     else carry.getD j F32.zero)
  else
    (if 0 ≤ c ∧ c < (cn / 2 : Nat) then time.getD c.toNat F32.zero else F32.zero)

/-- `OUTF` of one channel (47_synthesis.md R325, R327). -/
def outputOf (pn cn l : Nat) (carry time : List F32) : List F32 :=
  if pn = 0 then List.replicate l F32.zero else (List.range l).map (overlapAt pn cn carry time)

/-- The carry of one channel after a frame: its first `cn/2` elements are the windowed right half
(47_synthesis.md R326). -/
def carryOf (cn : Nat) (carry time : List F32) : List F32 := time.drop (cn / 2) ++ carry.drop (cn / 2)

/-! ### PCM (47_synthesis.md R329, R330) -/

/-- `OUTBUF`: the samples of frame 0 of every channel, then of frame 1, and so on (47_synthesis.md R330). -/
def interleave (l : Nat) (outf : List (List F32)) : List Sample :=
  (List.range l).flatMap (fun j => outf.map (fun row => pcm16 (row.getD j F32.zero)))

/-! ### Synthesis (47_synthesis.md R331) -/

/-- The frame buffers after the transform, the window and the overlap-add of every channel, with `OUTBUF` filled. -/
def synthFrame (s : State) (f : Frame) : Frame :=
  let w := windowOf s.params.window (windowBounds f.n s.cfg.bs0 f.blockflag f.prevwin f.nextwin) f.n
  let time := f.spectrum.map (fun x => List.zipWith F32.mul (imdct s.params.imdct x f.n) w)
  let l := outputLength s.params.firstPacket s.prevN f.n
  let outf := (List.range s.cfg.channels).map (fun ch =>
    outputOf s.prevN f.n l (s.carry.getD ch []) (time.getD ch []))
  { f with time := time, outf := outf, outbuf := interleave l outf, outLen := l }

/-- The carries of every channel after a frame (47_synthesis.md R326). -/
def carries (channels n : Nat) (carry time : List (List F32)) : List (List F32) :=
  (List.range channels).map (fun ch => carryOf n (carry.getD ch []) (time.getD ch []))

/-- `synthesize` up to its emission (47_synthesis.md R331). -/
def synthesize (s : State) : Host.Outcome State Fault Refusal :=
  let f := synthFrame s s.frame
  .next { s with
    frame := f
    carry := carries s.cfg.channels f.n s.carry f.time
    prevN := f.n
    seq := .emit 0 }

/-- How many of `left` samples the sink takes now (10_state.md R39). -/
def sinkTakes (room : Option Nat) (left : Nat) : Nat :=
  match room with
  | none => left
  | some k => min k left

/-- The end of an audio packet: `FRAMES_OUT` grows by `L`, the frame buffers are gone, and the packet is complete
(47_synthesis.md R331, 46_audio_packet.md R308). -/
def frameDone (s : State) : Host.Outcome State Fault Refusal :=
  completePacket { s with
    cnt := { s.cnt with framesOut := satAdd 64 s.cnt.framesOut s.frame.outLen }
    frame := .empty }

/-- `pcm_emit` of `OUTBUF` from sample `k` on, as many as the sink takes; a sink that takes none stalls the core
(10_state.md R39, 47_synthesis.md R330). -/
def emit (k : Nat) (s : State) : Host.Outcome State Fault Refusal :=
  let left := s.frame.outbuf.drop k
  let m := sinkTakes s.sinkRoom left.length
  let t := { s with out := s.out ++ left.take m, sinkRoom := s.sinkRoom.map (fun r => r - m) }
  if m = left.length then frameDone t else .next { t with seq := .emit (k + m) }

end Sys2Proof.Machine
end

