-- ==== Sys2Proof/Machine/Sequencer.lean ====
section
/-! DEFINITION. What comes next: a host write whose turn it is, an internal operation of the core, or a unit decoded
from the packet or from the source (42_headers.md R170, 40_ogg_demuxer.md R127, 30_encoding.md R82, R96). Also the
placing of an opcode-table word where the next step decodes it. -/

namespace Sys2Proof.Machine

open Sys2Proof

/-- What the next step does: run a decoded unit, or an act whose outcome is given. -/
inductive Fetched where
  | run (i : Instr)
  | act (o : Host.Outcome State Fault Refusal)

/-! ### The decode context -/

/-- The residue type of the submap `sm` of the frame (46_audio_packet.md R304). -/
def State.submapType (s : State) (sm : Nat) : Option ResType :=
  match s.frameMapping with
  | none => none
  | some m => (s.submapResidue m sm).map (fun rc => rc.2.type)

/-- The unit kind of a packet's first bits, by `PHASE` (30_encoding.md R82). -/
def State.packetCtx (s : State) : Option Ctx :=
  match s.phase with
  | .hdrId => some .idHdr
  | .hdrComment => some .commentHdr
  | .hdrSetup => some .setupHdr
  | .audio => some (.audio s.nModes)
  | .idle => none
  | .done => none
  | .error => none

/-- The context of the unit at the bit cursor; nothing where no unit stands there, or the configuration that sizes
it is absent. -/
def State.ctx (s : State) : Option Ctx :=
  match s.seq with
  | .packet => s.packetCtx
  | .codebook => some (.codebook s.codebooks.length)
  | .lengths => s.book.map (fun b => .lengths b.entries)
  | .lookup =>
    s.book.map (fun b => .lookup s.bookIndex b.entries b.dims (s.params.maxMultiplicands - s.multStored))
  | .time t _ => some (.time t)
  | .floor => some (.floor s.floors.length)
  | .residue => some (.residue s.residues.length)
  | .mapping => some (.mapping s.mappings.length s.cfg.channels)
  | .mode => some (.mode s.modes.length)
  | .window => some .window
  | .floorPayload ch => (s.channelFloor ch).map (fun f => .floorPayload (floorRange f.multiplier))
  | .residuePayload sm => (s.submapType sm).map .residuePayload
  | .boundary => none
  | .assemble _ => none
  | .huffBuild => none
  | .count _ => none
  | .framing => none
  | .curves => none
  | .couple => none
  | .synth => none
  | .emit _ => none

/-! ### An illegal selector (30_encoding.md R97) -/

/-- What a failing selector check leaves written in the entry under decode: the lookup type
(43_codebook.md R215), or the mode's block flag (42_headers.md R182). -/
def illegalWrites (c : ErrCode) (head : Nat) (s : State) : State :=
  match c with
  | .cbLookup => s.modifyBook (fun b => { b with lookup := head })
  | .modeWindow => { s with
      modes := s.modes ++ [{ blockflag := head == 1, windowtype := 0, transformtype := 0, mapping := 0 }] }
  | .modeTransform => { s with
      modes := s.modes ++ [{ blockflag := head == 1, windowtype := 0, transformtype := 0, mapping := 0 }] }
  | _ => s

/-- An illegal selector in a packet: the fields up to the failing one are read, then the abort
(30_encoding.md R97, 60_exceptions.md R351). -/
def takeIllegal (c : ErrCode) (index : Nat) (reads : List Nat) (head : Nat) (s : State) :
    Host.Outcome State Fault Refusal :=
  abort (illegalWrites c head (s.skips reads)) c index

/-! ### Host turns (10_state.md R52, 70_reset_and_hazards.md R383) -/

/-- The core waits for a byte of the source. -/
def State.waitsOnSource (s : State) : Bool :=
  match s.seq with
  | .assemble _ =>
    s.phase.busy && s.needsPage && (decodePage (srcBytes s.src) == .short) && (srcAfter s.src).isEmpty
  | _ => false

/-- The core waits for the sink. -/
def State.waitsOnSink (s : State) : Bool :=
  match s.seq with
  | .emit k => s.phase.busy && decide (s.sinkRoom = some 0) && decide (k < s.frame.outbuf.length)
  | _ => false

/-- Whether a host write acts now: between two core steps, or during a wait. -/
def State.hostTurn (s : State) : Bool :=
  !s.phase.busy || decide (s.seq = .boundary) || s.waitsOnSource || s.waitsOnSink

/-- Whether a host write is one that resets the core. -/
def HostWrite.resets (w : HostWrite) (base : Nat) : Bool := decide (w.addr % 4 = 0 ∧ w.addr = base) && w.value.getLsbD 1

/-- One host write, taken from the queue. A reset during a wait on the source leaves the bytes of the abandoned step
taken (70_reset_and_hazards.md R383). -/
def takeHostWrite (w : HostWrite) (rest : List HostWrite) (s : State) : Host.Outcome State Fault Refusal :=
  let t := { s with hostQ := rest }
  if s.waitsOnSource && w.resets s.params.regsBase then hostWrite w { t with src := srcAfter t.src } else hostWrite w t

/-! ### The next act -/

/-- The unit at the bit cursor, decoded in its context. -/
def fetchUnit (s : State) : Fetched :=
  match s.ctx with
  | none => .act (.fault .configAbsent)
  | some c =>
    match decode c s.reader.rest with
    | .ok i _ => .run i
    | .illegal e index reads head => .act (takeIllegal e index reads head s)

/-- The next act of `next_packet()` (40_ogg_demuxer.md R127). -/
def fetchSegment (started : Bool) (s : State) : Fetched :=
  if s.needsPage then
    match decodePage (srcBytes s.src) with
    | .ok p => .run (.oggPage p)
    | .short => .act (pageShort started (srcBytes s.src) s)
    | .illegal c => .act (pageIllegal (srcBytes s.src) c s)
  else .act (takeSegment s)

/-- The next act of a core that takes steps (42_headers.md R170). -/
def fetchCore (s : State) : Fetched :=
  match s.seq with
  | .boundary => .act (beginPacket s)
  | .assemble started => fetchSegment started s
  | .huffBuild => .act (huffBuild s)
  | .count k => .act (openSection k s)
  | .framing => .act (setupFraming s)
  | .curves => .act (floorCurves s)
  | .couple => .act (coupleOp s)
  | .synth => .act (synthesize s)
  | .emit k => .act (emit k s)
  | .packet => fetchUnit s
  | .codebook => fetchUnit s
  | .lengths => fetchUnit s
  | .lookup => fetchUnit s
  | .time _ _ => fetchUnit s
  | .floor => fetchUnit s
  | .residue => fetchUnit s
  | .mapping => fetchUnit s
  | .mode => fetchUnit s
  | .window => fetchUnit s
  | .floorPayload _ => fetchUnit s
  | .residuePayload _ => fetchUnit s

/-- The next act with no host write in turn: none in `IDLE`, `DONE` and `ERROR` (42_headers.md R170). -/
def fetchCoreOrRest (s : State) : Fetched := if s.phase.busy then fetchCore s else .act (.next s)

/-- What the next step does. -/
def fetch (s : State) : Fetched :=
  match s.hostQ with
  | [] => fetchCoreOrRest s
  | w :: rest => if s.hostTurn then .act (takeHostWrite w rest s) else fetchCoreOrRest s

/-! ### Placing an opcode-table word (log 16, log 17) -/

/-- The state whose packet is the word's bytes, read in `phase` at `seq`. -/
def placeInPacket (nbits w : Nat) (phase : Phase) (seq : Seq) (s : State) : State :=
  { s with hostQ := [], phase := phase, seq := seq, pkt := tableWordBytes nbits w, pktBitpos := 0 }

/-- The state in which the next step decodes an opcode-table word in its context. -/
def placeWord (nbits w : Nat) (s : State) : State :=
  match tableCtx nbits w with
  | .page =>
    { s with
      hostQ := []
      phase := .hdrId
      seq := .assemble false
      pageValid := false
      src := (tableWordBytes nbits w).map .byte ++ [.eos] }
  | .idHdr => placeInPacket nbits w .hdrId .packet s
  | .commentHdr => placeInPacket nbits w .hdrComment .packet s
  | .setupHdr => placeInPacket nbits w .hdrSetup .packet s
  | .codebook _ => placeInPacket nbits w .hdrSetup .codebook s
  | .lengths entries =>
    placeInPacket nbits w .hdrSetup .lengths { s with codebooks := s.codebooks ++ [Codebook.fresh 0 entries] }
  | .time _ => placeInPacket nbits w .hdrSetup (.time 0 1) s
  | .floor _ => placeInPacket nbits w .hdrSetup .floor s
  | .residue _ => placeInPacket nbits w .hdrSetup .residue s
  | .mode _ => placeInPacket nbits w .hdrSetup .mode s
  | .audio modes =>
    placeInPacket nbits w .audio .packet { s with
      nModes := modes
      modes := List.replicate modes { blockflag := false, windowtype := 0, transformtype := 0, mapping := 0 } }
  | .window => placeInPacket nbits w .audio .window s
  | .lookup _ _ _ _ => s
  | .mapping _ _ => s
  | .floorPayload _ => s
  | .residuePayload _ => s

end Sys2Proof.Machine
end

