-- ==== Sys2Proof/Machine/Dispatch.lean ====
section
/-! DEFINITION. The dispatch: one arm per constructor of `Instr`, one direct call of its meaning. -/

namespace Sys2Proof.Machine

def exec (i : Instr) (s : State) : Host.Outcome State Fault Refusal :=
  match i with
  | .oggPage p => Sys2Proof.Machine.execOggPage p s
  | .idHdr f => Sys2Proof.Machine.execIdHdr f s
  | .commentHdr f => Sys2Proof.Machine.execCommentHdr f s
  | .setupHdr n => Sys2Proof.Machine.execSetupHdr n s
  | .codebook dims entries => Sys2Proof.Machine.execCodebook dims entries s
  | .cbLenDense lens => Sys2Proof.Machine.execCbLenDense lens s
  | .cbLenSparse lens => Sys2Proof.Machine.execCbLenSparse lens s
  | .cbLenOrdered initM1 counts => Sys2Proof.Machine.execCbLenOrdered initM1 counts s
  | .cbLookup0 => Sys2Proof.Machine.execCbLookup0 s
  | .cbLookup1 f => Sys2Proof.Machine.execCbLookup1 f s
  | .cbLookup2 f => Sys2Proof.Machine.execCbLookup2 f s
  | .timeEntry => Sys2Proof.Machine.execTimeEntry s
  | .floor1 f => Sys2Proof.Machine.execFloor1 f s
  | .res0 f => Sys2Proof.Machine.execRes0 f s
  | .res1 f => Sys2Proof.Machine.execRes1 f s
  | .res2 f => Sys2Proof.Machine.execRes2 f s
  | .map0 f => Sys2Proof.Machine.execMap0 f s
  | .mode blockflag mapping => Sys2Proof.Machine.execMode blockflag mapping s
  | .audioPacket mode => Sys2Proof.Machine.execAudioPacket mode s
  | .windowFlags prev next => Sys2Proof.Machine.execWindowFlags prev next s
  | .floor1PayloadUnused => Sys2Proof.Machine.execFloor1PayloadUnused s
  | .floor1PayloadPresent y0 y1 => Sys2Proof.Machine.execFloor1PayloadPresent y0 y1 s
  | .res0Payload => Sys2Proof.Machine.execRes0Payload s
  | .res1Payload => Sys2Proof.Machine.execRes1Payload s
  | .res2Payload => Sys2Proof.Machine.execRes2Payload s

end Sys2Proof.Machine
end

