-- ==== Sys2Proof/Machine/Step.lean ====
section
/-! DEFINITION. The step: what `fetch` gives, run. Also the placing of an opcode-table word for the next step. -/

namespace Sys2Proof.Machine

/-- One step of the machine (log 1). -/
def step (s : State) : Host.Outcome State Fault Refusal :=
  match fetch s with
  | .run i => exec i s
  | .act o => o

/-- `s` with an opcode-table word placed where the next step decodes its unit (log 16). -/
def State.withFetchWord (s : State) (nbits w : Nat) : State := placeWord nbits w s

end Sys2Proof.Machine
end

