-- ==== Sys2Proof/Safety.lean ====
section
/-! DEFINITION. What a run's end means (70_reset_and_hazards.md R385), the invariants of the machine, the configuration
under which an audio payload always completes, and the relations between two states that claims are written in. -/

namespace Sys2Proof

/-! ### Numbers (00_scope.md R10) -/

/-- The number that a finite value stands for. -/
def F32.val : F32 → ℚ
  | .nan => 0
  | .inf _ => 0
  | .fin neg m e => (if neg then -1 else 1) * (m : ℚ) * (2 : ℚ) ^ ((e : ℤ) - 149)

/-- `r` is `rnd32(x)` (00_scope.md R10): canonical; an infinity of the sign of `x` from half a unit above the largest number
on; and below, a number of the sign of `x` that no other one is nearer to, with an even significand when one is as near. -/
def F32.isRnd (x : ℚ) (r : F32) : Prop :=
  r.canonical = true
    ∧ ((2 ^ 25 - 1) * 2 ^ 103 ≤ |x| → r = .inf (decide (x < 0)))
    ∧ (|x| < (2 ^ 25 - 1) * 2 ^ 103 →
        ∃ neg q e, r = .fin neg q e ∧ (x ≠ 0 → neg = decide (x < 0))
          ∧ ∀ y : F32, y.canonical = true → y.isFinite = true →
              |x - r.val| ≤ |x - y.val| ∧ (|x - r.val| = |x - y.val| → r.val ≠ y.val → q % 2 = 0))

end Sys2Proof

namespace Sys2Proof.Machine

open Sys2Proof

/-! ### Ends of a run (70_reset_and_hazards.md R385) -/

/-- A successful end. -/
def State.succeeded (s : State) : Prop := s.phase = .done

/-- A faulted end. -/
def State.failed (s : State) : Prop := s.phase = .error

/-! ### The invariant that every step keeps -/

/-- The phases in which a place of the sequencer occurs (42_headers.md R170, R176, 46_audio_packet.md R300). -/
def Seq.inPhase : Seq → Phase → Bool
  | .boundary, _ => true
  | .assemble _, _ => true
  | .packet, _ => true
  | .codebook, p => decide (p = .hdrSetup)
  | .lengths, p => decide (p = .hdrSetup)
  | .lookup, p => decide (p = .hdrSetup)
  | .huffBuild, p => decide (p = .hdrSetup)
  | .count _, p => decide (p = .hdrSetup)
  | .time _ _, p => decide (p = .hdrSetup)
  | .floor, p => decide (p = .hdrSetup)
  | .residue, p => decide (p = .hdrSetup)
  | .mapping, p => decide (p = .hdrSetup)
  | .mode, p => decide (p = .hdrSetup)
  | .framing, p => decide (p = .hdrSetup)
  | .window, p => decide (p = .audio)
  | .floorPayload _, p => decide (p = .audio)
  | .curves, p => decide (p = .audio)
  | .residuePayload _, p => decide (p = .audio)
  | .couple, p => decide (p = .audio)
  | .synth, p => decide (p = .audio)
  | .emit _, p => decide (p = .audio)

/-- Whether the packet is being decoded: assembled, and not yet complete. -/
def Seq.decoding : Seq → Bool
  | .boundary => false
  | .assemble _ => false
  | _ => true

/-- The error record of a cause (60_exceptions.md R351, R352). -/
def ErrRec.isOf (e : ErrRec) (c : ErrCode) : Prop := e.cls = c.cls ∧ e.code = BitVec.ofNat 16 c.number

/-- The current page and its cursors (10_state.md R23, R24): the table and the payload are as long as the header says,
and the payload cursor stands at the segments already taken. -/
def State.pageOk (s : State) : Prop :=
  s.pg.seg.length = s.pg.nseg.toNat ∧ s.segCursor ≤ s.pg.nseg.toNat
    ∧ s.payCursor = total ((s.pg.seg.take s.segCursor).map BitVec.toNat)
    ∧ s.pg.payload.length = total (s.pg.seg.map BitVec.toNat)

/-- The machine's invariant: true after reset, kept by every step. -/
structure State.Inv (s : State) : Prop where
  /-- The error record is clear exactly outside `ERROR`, and there it holds a cause of the table
  (60_exceptions.md R351, R352). -/
  noError : s.phase ≠ .error → s.err = .clear
  errorCause : s.phase = .error → ∃ c, s.err.isOf c
  /-- The bit cursor stays inside the packet (41_bitreader.md R154), and the packet inside its buffer
  (20_memory.md R70). -/
  cursor : s.pktBitpos ≤ 8 * s.pkt.length
  capacity : s.pkt.length ≤ s.params.maxPacketBytes
  /-- The widths of 10_state.md R23, R36 and R37. -/
  srcPos : s.srcPos < 2 ^ 64
  packetNo : s.packetNo < 2 ^ 32
  exhausted : s.warn.exhausted < 2 ^ 32
  clamp : s.warn.clamp < 2 ^ 32
  pages : s.cnt.pagesAccepted < 2 ^ 32
  frames : s.cnt.framesOut < 2 ^ 64
  /-- `WARN_ANY` says whether a warning was counted (60_exceptions.md R354). -/
  warnAny : s.warn.any = decide (0 < s.warn.exhausted ∨ 0 < s.warn.clamp)
  /-- `PACKETS_DONE` and `PACKET_NO` grow together (40_ogg_demuxer.md R131). -/
  packets : s.cnt.packetsDone = s.packetNo
  /-- Between two core steps a host sees the registers as they stand (10_state.md R52). -/
  view : s.phase.busy = false ∨ s.seq = .boundary → s.view = s.mirror
  /-- The sequencer's place belongs to the phase. -/
  place : s.phase.busy = true → s.seq.inPhase s.phase = true
  /-- The current page: what a failed page read leaves of the record (log 6) is in `ERROR` only. -/
  page : s.phase ≠ .error → s.pageValid = true → s.pageOk
  /-- `PKT_CONTINUING` is set only inside a packet's assembly, and clear while bits are read
  (41_bitreader.md R155). -/
  continuing : s.phase.busy = true → s.seq.decoding = true → s.pktContinuing = false
  started : ∀ b, s.phase.busy = true → s.seq = .assemble b → s.pktContinuing = b
  /-- There is no carry before the first audio packet (42_headers.md R185). -/
  carry : s.phase = .idle ∨ s.phase = .hdrId ∨ s.phase = .hdrComment ∨ s.phase = .hdrSetup →
    s.prevN = 0 ∧ s.carry = []

/-- The invariant under which no read is clamped (41_bitreader.md R152): every computed width is at most 32. -/
structure State.Unclamped (s : State) : Prop where
  clamp : s.warn.clamp = 0
  channels : s.cfg.channels < 256
  modes : s.nModes ≤ 64
  entries : ∀ b ∈ s.codebooks, b.entries < 2 ^ 24

/-! ### Relations between two states -/

/-- The configuration that is read-only from `AUDIO` on (10_state.md R33, 70_reset_and_hazards.md R388). -/
def SameConfig (s t : State) : Prop :=
  t.cfg = s.cfg ∧ t.nCodebooks = s.nCodebooks ∧ t.nFloors = s.nFloors ∧ t.nResidues = s.nResidues
    ∧ t.nMappings = s.nMappings ∧ t.nModes = s.nModes ∧ t.codebooks = s.codebooks ∧ t.floors = s.floors
    ∧ t.residues = s.residues ∧ t.mappings = s.mappings ∧ t.modes = s.modes

/-- The only moves of `PHASE` (10_state.md R21). -/
def Phase.moves : Phase → Phase → Bool
  | _, .idle => true
  | .idle, .hdrId => true
  | .hdrId, .hdrComment => true
  | .hdrComment, .hdrSetup => true
  | .hdrSetup, .audio => true
  | .audio, .done => true
  | p, .error => p.busy
  | _, _ => false

/-- Of fields of the widths `ws`, read one after the other with `left` bits of the packet to go, how many do not fit: each
of them is one exhaustion event, however many of its bits are missing (41_bitreader.md R154). -/
def shortReads (left : Nat) : List Nat → Nat
  | [] => 0
  | w :: ws => (if left < w then 1 else 0) + shortReads (left - w) ws

/-- The warning record after `n` exhaustion events: `WARN_ANY` is set by any of them, and the counter saturates
(60_exceptions.md R354). -/
def WarnRec.warned (w : WarnRec) (n : Nat) : WarnRec :=
  { any := w.any || decide (0 < n), exhausted := min (w.exhausted + n) (2 ^ 32 - 1), clamp := w.clamp }

/-- A reader after fields of the widths `ws`, none wider than 32: the cursor moves by all of them, or to the packet's end, and
each that does not fit is one exhaustion event (41_bitreader.md R151, R154). -/
def Reader.after (r : Reader) (ws : List Nat) : Reader :=
  { r with
    pos := min (r.pos + total ws) (8 * r.bytes.length)
    exhausted := r.exhausted + shortReads (8 * r.bytes.length - r.pos) ws }

/-- Between `s` and `t` fields of the widths `ws` have been read, none wider than 32: the cursor moves by all of them, or to
the packet's end, and each that does not fit is warned of once (41_bitreader.md R151, R154, 60_exceptions.md R354). -/
def ReadBy (s t : State) (ws : List Nat) : Prop :=
  t.pktBitpos = min (s.pktBitpos + total ws) (8 * s.pkt.length)
    ∧ t.warn = s.warn.warned (shortReads (8 * s.pkt.length - s.pktBitpos) ws)

/-- The five registers and the phase that an abort of `s` at `t` writes (60_exceptions.md R351), as the host sees them
after it (10_state.md R52). -/
def AbortedAs (s t : State) (c : ErrCode) (index : Nat) : Prop :=
  t.phase = .error
    ∧ t.err =
      { cls := c.cls
        code := BitVec.ofNat 16 c.number
        index := BitVec.ofNat 32 index
        packet := BitVec.ofNat 32 s.packetNo
        page := BitVec.ofNat 32 s.cnt.pagesAccepted }
    ∧ t.view = t.mirror

/-- The host write whose turn comes next is one of `CTRL` with `SRESET` set (10_state.md R41). -/
def State.resetArrived (s : State) : Prop :=
  ∃ w rest, s.hostQ = w :: rest ∧ w.addr = s.params.regsBase ∧ w.value.getLsbD 1 = true

/-- The host write whose turn comes next is one of `CTRL` with `START` set and `SRESET` clear (10_state.md R41). -/
def State.startArrived (s : State) : Prop :=
  ∃ w rest, s.hostQ = w :: rest ∧ w.addr = s.params.regsBase ∧ w.value.getLsbD 1 = false ∧ w.value.getLsbD 0 = true

/-- `n` steps of the machine, where each answers a next state. -/
def stepN : Nat → State → Option State
  | 0, s => some s
  | n + 1, s =>
    match step s with
    | .next t => stepN n t
    | .fault _ => none
    | .refused _ => none

/-- What the page record `p` becomes when the bytes of a page with a legal header end early (40_ogg_demuxer.md R120, 10_state.md
R24): nothing is written before the header is there; then its fields are, and of the table and the payload the bytes that have
come, while the others keep their old values. -/
def partlyRead (bytes : List Byte) (p q : PageRec) : Prop :=
  (bytes.length < 27 → q = p)
  ∧ (27 ≤ bytes.length →
    q.capture = 0x5367674F ∧ q.version = 0 ∧ q.htype = bytes.getD 5 0
    ∧ q.granule = BitVec.ofNat 64 (leNat ((bytes.drop 6).take 8))
    ∧ q.serial = BitVec.ofNat 32 (leNat ((bytes.drop 14).take 4))
    ∧ q.sequence = BitVec.ofNat 32 (leNat ((bytes.drop 18).take 4))
    ∧ q.crc = BitVec.ofNat 32 (leNat ((bytes.drop 22).take 4))
    ∧ q.nseg = bytes.getD 26 0
    ∧ (∀ k < q.nseg.toNat, q.seg[k]? = if 27 + k < bytes.length then bytes[27 + k]? else p.seg[k]?)
    ∧ q.seg.length ≤ q.nseg.toNat
    ∧ (bytes.length < 27 + q.nseg.toNat → q.payload = p.payload)
    ∧ (27 + q.nseg.toNat ≤ bytes.length →
      (∀ k < total (q.seg.map BitVec.toNat), q.payload[k]? =
        if 27 + q.nseg.toNat + k < bytes.length then bytes[27 + q.nseg.toNat + k]? else p.payload[k]?)
      ∧ q.payload.length ≤ total (q.seg.map BitVec.toNat)))

/-- A page with bit `k` of byte `j` of its payload inverted (40_ogg_demuxer.md R125). -/
def flipPayload (p : Page) (j k : Nat) : Page :=
  { p with payload := p.payload.modify j (fun b => b ^^^ BitVec.ofNat 8 (2 ^ k)) }

/-- The value of a codeword, its first bit the most significant (43_codebook.md R222). -/
def codeValue (c : List Bool) : Nat := c.foldl (fun v b => 2 * v + b.toNat) 0

/-- Whether a bit string is free among the codewords of the entries before `e` (43_codebook.md R222): none of them is a prefix
of it, nor it of one of them. -/
def freeBefore (code : List (Option (List Bool))) (e : Nat) (x : List Bool) : Prop :=
  ∀ k < e, ∀ c, code[k]? = some (some c) → ¬ c <+: x ∧ ¬ x <+: c

/-- The next `n` bits of the packet at a reader, zeros past its end (41_bitreader.md R150, R154). -/
def Reader.bits (r : Reader) (n : Nat) : List Bool := (List.range n).map (fun k => packetBit r.bytes (r.pos + k))

/-- What `floor_vector` leaves for channel `ch` of a frame whose curves start at `s` (44_floor1.md R266): a silent channel's
vector is zeros and nothing else of it is written; a used one's vector, curve, final Y values and used flags are those of
`floorVector`, and flags past the floor's points are not written. -/
def State.floorDone (s t : State) (ch : Nat) : Prop :=
  (s.floorUnused.getD ch false = true →
    t.frame.floor[ch]? = some (List.replicate (s.frame.n / 2) F32.zero)
      ∧ t.frame.floorFinalY[ch]? = s.frame.floorFinalY[ch]? ∧ t.frame.floorInt[ch]? = s.frame.floorInt[ch]?
      ∧ t.floorUsed[ch]? = s.floorUsed[ch]?)
  ∧ (s.floorUnused.getD ch false = false →
    ∀ f finalY used curve vec, s.channelFloor ch = some f →
      floorVector s.params (s.frame.n / 2) f (s.frame.floorY.getD ch []) = .ok finalY used curve vec →
      t.frame.floor[ch]? = some vec ∧ t.frame.floorFinalY[ch]? = some finalY ∧ t.frame.floorInt[ch]? = some curve
        ∧ t.floorUsed[ch]? = some (used ++ (s.floorUsed.getD ch []).drop used.length))

/-- Nothing of channel `ch` that `floor_vector` writes has changed. -/
def State.floorKept (s t : State) (ch : Nat) : Prop :=
  t.frame.floor[ch]? = s.frame.floor[ch]? ∧ t.frame.floorFinalY[ch]? = s.frame.floorFinalY[ch]?
    ∧ t.frame.floorInt[ch]? = s.frame.floorInt[ch]? ∧ t.floorUsed[ch]? = s.floorUsed[ch]?

/-- There is a row for each of `n` channels in every buffer that `floor_vector` writes. -/
def State.floorRows (s : State) (n : Nat) : Prop :=
  n ≤ s.frame.floor.length ∧ n ≤ s.frame.floorFinalY.length ∧ n ≤ s.frame.floorInt.length ∧ n ≤ s.floorUsed.length

/-- The used points of a sorted list, its first point in front (44_floor1.md R264). -/
def curvePoints : List FloorPoint → List FloorPoint
  | [] => []
  | p :: ps => p :: ps.filter FloorPoint.used

/-- The class value of a partition is read (44_floor1.md R257): a codeword of the masterbook, or 0 without subclass bits. -/
def ClassValueRead (books : List Codebook) (c : FloorClass) (r : Reader) (cval : Nat) (r' : Reader) : Prop :=
  (c.sub = 0 ∧ cval = 0 ∧ r' = r) ∨ (c.sub ≠ 0 ∧ ∃ m, c.master = some m ∧ huffDecode books m r = .ok cval r')

/-- The book of slot `j` of a class (44_floor1.md R257): the class value's `j`-th piece of subclass bits, low bits first, names
it; the outer `none` is a piece that names no entry. -/
def slotBook (c : FloorClass) (cval j : Nat) : Option (Option Nat) := c.books[cval / 2 ^ (c.sub * j) % 2 ^ c.sub]?

/-- The Y values of the slots of a class from slot `j` on (44_floor1.md R257): an entry of the slot's book, or 0 without one. -/
def SlotsRead (books : List Codebook) (c : FloorClass) (cval : Nat) : Nat → Reader → List Nat → Reader → Prop
  | _, r, [], r' => r' = r
  | j, r, y :: ys, r' => ∃ r1,
      ((slotBook c cval j = some none ∧ y = 0 ∧ r1 = r)
        ∨ ∃ b, slotBook c cval j = some (some b) ∧ huffDecode books b r = .ok y r1)
      ∧ SlotsRead books c cval (j + 1) r1 ys r'

/-- The Y values of the partitions of the classes `ps`, in order (44_floor1.md R257): the class value, then one value for each
slot of the class. -/
def PartitionsRead (books : List Codebook) (f : FloorConfig) : List Nat → Reader → List Nat → Reader → Prop
  | [], r, ys, r' => ys = [] ∧ r' = r
  | p :: ps, r, ys, r' => ∃ c cval r1 ys1 r2 ys2, f.classes[p]? = some c ∧ ClassValueRead books c r cval r1
      ∧ ys1.length = c.dim ∧ SlotsRead books c cval 0 r1 ys1 r2 ∧ PartitionsRead books f ps r2 ys2 r' ∧ ys = ys1 ++ ys2

/-- The setup unit of a residue of each type (45_residue.md R280). -/
def resInstr : ResType → ResidueFields → Instr
  | .t0, f => .res0 f
  | .t1, f => .res1 f
  | .t2, f => .res2 f

/-- Vectors `es` of book `b` decoded one after the other, from `r` to `r'` (43_codebook.md R227). -/
def VectorsRead (books : List Codebook) (b : Nat) : Reader → List (List F32) → Reader → Prop
  | r, [], r' => r' = r
  | r, e :: es, r' => ∃ r1, vqDecode books b r = .ok e r1 ∧ VectorsRead books b r1 es r'

/-- How many vectors a partition takes (45_residue.md R287, R288): `step` of type 0, else as many as fill it. -/
def partitionVectors (ty : ResType) (psize dims : Nat) : Nat :=
  if ty = .t0 then psize / dims else (psize + dims - 1) / dims

/-- Where value `t` of vector `j` of a partition goes (45_residue.md R287, R288). -/
def partitionPlace (ty : ResType) (off psize dims j t : Nat) : Nat :=
  if ty = .t0 then off + j + t * (psize / dims) else off + j * dims + t

/-- An act of `residue_passes` (45_residue.md R286): a classification codeword for channel position `k` and the group that
starts at partition `pc`, or partition `pc` of channel position `k` in a pass. -/
inductive ResAct where
  | classify (pc k : Nat)
  | partition (pass pc k : Nat)
  deriving DecidableEq, Repr

/-- The acts of `residue_passes` over the channel positions `act` in their order (45_residue.md R286): pass by pass and partition
by partition; in pass 0 the codewords of a group of `cpc` partitions come before its first partition. -/
def residueSchedule (cpc nparts : Nat) (act : List Nat) : List ResAct :=
  (List.range 8).flatMap (fun pass => (List.range nparts).flatMap (fun pc =>
    (if pass = 0 ∧ pc % cpc = 0 then act.map (ResAct.classify pc) else []) ++ act.map (ResAct.partition pass pc)))

/-- The `n` digits of a value in a radix, the most significant first (45_residue.md R285). -/
def digitsOf (radix n v : Nat) : List Nat := (List.range n).map (fun i => v / radix ^ (n - 1 - i) % radix)

/-- One act (45_residue.md R285, R286). The digits of a codeword are stored as `CLASSIF[k][pc .. pc+cpc-1]`; a partition takes the
book `R.books[CLASSIF[k][pc]][pass]`, from `begin + pc * psize` on, and without a book reads nothing. -/
def ResAct.run (books : List Codebook) (res : Nat) (c : ResidueConfig) (cpc : Nat) : ResAct → ResWork → Reader → Got ResWork
  | .classify pc k, w, r =>
    (huffDecode books c.classbook r).bind fun v r =>
      .ok { w with classif := w.classif.set k ((w.classif.getD k []).take pc ++ digitsOf c.classifications cpc v) } r
  | .partition pass pc k, w, r =>
    match (w.classif.getD k [])[pc]? with
    | none => .stuck .bufferBounds
    | some d =>
      match (c.books.getD d [])[pass]? with
      | none => .stuck .bufferBounds
      | some none => .ok w r
      | some (some b) =>
        (Sys2Proof.Machine.partition c.type books res b (c.begin + pc * c.psize) c.psize (w.out.getD k []) r).bind fun v r =>
          .ok { w with out := w.out.set k v } r

/-- Run acts in order, up to the first that fails. -/
def runActs (books : List Codebook) (res : Nat) (c : ResidueConfig) (cpc : Nat) : List ResAct → ResWork → Reader → Got ResWork
  | [], w, r => .ok w r
  | a :: acts, w, r => (a.run books res c cpc w r).bind (runActs books res c cpc acts)

/-- The vectors under accumulation before the first act: `n` of `len` zeros, without classification digits
(45_residue.md R284, R289). -/
def ResWork.start (n len : Nat) : ResWork :=
  { out := List.replicate n (List.replicate len F32.zero), classif := List.replicate n [] }

/-- What `residue_passes` gives for the channels `chs` of a submap with residue `rc` (45_residue.md R284, R286, R289): each
channel with residue decoded into a vector of its own, or one interleaved vector of all of them for type 2. -/
def State.residueRun (s : State) (res : Nat) (rc : ResidueConfig) (chs : List Nat) : Got ResWork :=
  let nparts := residueParts rc (residueActual rc.type (s.frame.n / 2) chs.length)
  match s.codebooks[rc.classbook]? with
  | none => .stuck .configAbsent
  | some cb =>
    if cb.dims = 0 then .bad .cbZeroDim rc.classbook s.reader
    else if rc.type = .t2 then
      runActs s.codebooks res rc cb.dims (residueSchedule cb.dims nparts [0])
        (.start 1 (s.frame.n / 2 * chs.length)) s.reader
    else
      runActs s.codebooks res rc cb.dims
        (residueSchedule cb.dims nparts
          ((List.range chs.length).filter (fun k => !s.noResidue.getD (chs.getD k 0) false)))
        (.start chs.length (s.frame.n / 2)) s.reader

/-- The instructions that are fields only: every one but the page, and the payloads with codewords (30_encoding.md R99). -/
def fieldsOnly : Instr → Bool
  | .oggPage _ => false
  | .floor1PayloadPresent _ _ => false
  | .res0Payload => false
  | .res1Payload => false
  | .res2Payload => false
  | _ => true

/-- The widths of the fields of a unit in its context, in the order in which they are read (30_encoding.md R82 to R95): one for
each read of the rule of the unit. A page is no part of a packet, and codewords are left out (30_encoding.md R99). -/
def fieldWidths (c : Ctx) : Instr → List Nat
  | .oggPage _ => []
  | .idHdr _ => List.replicate 7 8 ++ [32, 8, 32, 32, 32, 32, 4, 4, 1]
  | .commentHdr f =>
    List.replicate 7 8 ++ [32] ++ List.replicate f.vendorLen.toNat 8 ++ [32]
      ++ f.comments.flatMap (fun m => 32 :: List.replicate m.len.toNat 8) ++ [1]
  | .setupHdr _ => List.replicate 7 8 ++ [8]
  | .codebook _ _ => [24, 16, 24]
  | .cbLenDense lens => [1, 1] ++ List.replicate lens.length 5
  | .cbLenSparse lens => [1, 1] ++ lens.flatMap (fun v => if v.isSome then [1, 5] else [1])
  | .cbLenOrdered _ counts =>
    [1, 5] ++
      (match c with
        | .lengths entries =>
          (List.range counts.length).map (fun k => ilog (entries - total (counts.take k)))
        | _ => [])
  | .cbLookup0 => [4]
  | .cbLookup1 f => [4, 32, 32, 4, 1] ++ List.replicate f.mult.length (f.valueBitsM1.toNat + 1)
  | .cbLookup2 f => [4, 32, 32, 4, 1] ++ List.replicate f.mult.length (f.valueBitsM1.toNat + 1)
  | .timeEntry => [16]
  | .floor1 f =>
    [16, 5] ++ List.replicate f.partClass.length 4
      ++ f.classes.flatMap (fun k => [3, 2] ++ (if k.master.isSome then [8] else []) ++ List.replicate k.books.length 8)
      ++ [2, 4] ++ List.replicate f.xs.length f.rangebits.toNat
  | .res0 f => residueWidths f
  | .res1 f => residueWidths f
  | .res2 f => residueWidths f
  | .map0 f =>
    [16] ++ (if f.submapsM1.isSome then [1, 4] else [1])
      ++ (match f.coupling with
          | none => [1]
          | some steps =>
            match c with
            | .mapping _ channels => [1, 8] ++ List.replicate (2 * steps.length) (ilog (channels - 1))
            | _ => [])
      ++ [2] ++ List.replicate f.mux.length 4 ++ List.replicate (3 * f.subs.length) 8
  | .mode _ _ => [1, 16, 16, 8]
  | .audioPacket _ =>
    match c with
    | .audio modes => [1, ilog (modes - 1)]
    | _ => []
  | .windowFlags _ _ => [1, 1]
  | .floor1PayloadUnused => [1]
  | .floor1PayloadPresent _ _ =>
    match c with
    | .floorPayload range => [1, ilog (range - 1), ilog (range - 1)]
    | _ => []
  | .res0Payload => []
  | .res1Payload => []
  | .res2Payload => []
where
  /-- Those of a residue (30_encoding.md R89). -/
  residueWidths (f : ResidueFields) : List Nat :=
    [16, 24, 24, 24, 6, 8] ++ f.cascade.flatMap (fun k => if k.high.isSome then [3, 1, 5] else [3, 1])
      ++ f.books.flatMap (fun bs => List.replicate bs.length 8)

/-! ### The first failing check of a unit, in the order of the rules (60_exceptions.md R353) -/

/-- Of an identification header: the cause, the index, and how many fields are read up to the failing one
(42_headers.md R172, R173). -/
def idHdrError (f : IdFields) : Option (ErrCode × Nat × Nat) :=
  if f.version ≠ 0 then some (.idVersion, 0, 8)
  else if f.channels = 0 then some (.idChannels, 0, 9)
  else if f.rate = 0 then some (.idRate, 0, 10)
  else if f.e0.toNat < 8 ∨ 13 < f.e0.toNat then some (.idBlocksize, 0, 15)
  else if f.e1.toNat < 8 ∨ 13 < f.e1.toNat then some (.idBlocksize, 1, 15)
  else if f.e1.toNat < f.e0.toNat then some (.idBlocksize, 2, 15)
  else if f.framing = false then some (.hdrFraming, 0, 16)
  else none

/-- Of a floor (44_floor1.md R252, R258): a book index out of range, then an X value 0. -/
def floorError (nBooks : Nat) (f : FloorFields) : Option ErrCode :=
  if ∃ c ∈ f.classes, (∃ m ∈ c.master, nBooks ≤ m.toNat) ∨ ∃ b ∈ c.books, nBooks < b.toNat then some .floorBook
  else if 0 ∈ f.xs then some .floorNeighbor
  else none

/-- Of a residue (45_residue.md R280, R282): the classbook, then a pass book out of range. -/
def residueError (nBooks : Nat) (f : ResidueFields) : Option ErrCode :=
  if nBooks ≤ f.classbook.toNat ∨ ∃ row ∈ f.books, ∃ b ∈ row, nBooks ≤ b.toNat then some .resBook else none

/-- Of a mapping (42_headers.md R179 to R181). -/
def mappingError (channels nFloors nResidues : Nat) (f : MapFields) : Option ErrCode :=
  if ∃ st ∈ f.coupling.getD [], st.1 = st.2 ∨ channels ≤ st.1 ∨ channels ≤ st.2 then some .mapCoupling
  else if f.reserved ≠ 0 then some .mapReserved
  else if ∃ v ∈ f.mux, submapCount f.submapsM1 ≤ v.toNat then some .mapMux
  else
    (f.subs.find? (fun sm => decide (nFloors ≤ sm.floor.toNat ∨ nResidues ≤ sm.residue.toNat))).map
      (fun sm => if nFloors ≤ sm.floor.toNat then .mapFloor else .mapResidue)

/-! ### How far a unit is read when a check fails (60_exceptions.md R351, R353): no field after the failing one -/

/-- Of fields of the widths `ws`, with which of them pass their checks: those read, up to and with the first that does not
pass, or all of them. -/
def readUpTo (ws : List Nat) (ok : List Bool) : List Nat := ws.take ((ok.takeWhile id).length + 1)

/-- The fields of a floor that pass their checks, in the order of `fieldWidths` (44_floor1.md R252): the two kinds of books may
fail; the X values are checked when all fields are read (R258). -/
def floorFieldsOk (nBooks : Nat) (f : FloorFields) : List Bool :=
  List.replicate (2 + f.partClass.length) true
    ++ f.classes.flatMap (fun c => [true, true] ++ c.master.toList.map (fun m => decide (m.toNat < nBooks))
        ++ c.books.map (fun b => decide (b.toNat ≤ nBooks)))
    ++ List.replicate (2 + f.xs.length) true

/-- Of a residue (45_residue.md R280, R282): the classbook and the pass books may fail. -/
def residueFieldsOk (nBooks : Nat) (f : ResidueFields) : List Bool :=
  List.replicate 5 true ++ [decide (f.classbook.toNat < nBooks)]
    ++ f.cascade.flatMap (fun c => if c.high.isSome then [true, true, true] else [true, true])
    ++ f.books.flatMap (fun row => row.map (fun b => decide (b.toNat < nBooks)))

/-- Of a mapping (42_headers.md R178 to R181): the angle of a step, where both of its channels are checked; the reserved field;
the submap of a channel; and the floor and the residue of a submap. -/
def mappingFieldsOk (channels nFloors nResidues : Nat) (f : MapFields) : List Bool :=
  [true] ++ (if f.submapsM1.isSome then [true, true] else [true])
    ++ (match f.coupling with
        | none => [true]
        | some steps =>
          [true, true] ++ steps.flatMap (fun st => [true, decide (st.1 ≠ st.2 ∧ st.1 < channels ∧ st.2 < channels)]))
    ++ [decide (f.reserved = 0)] ++ f.mux.map (fun v => decide (v.toNat < submapCount f.submapsM1))
    ++ f.subs.flatMap (fun sm => [true, decide (sm.floor.toNat < nFloors), decide (sm.residue.toNat < nResidues)])

/-! ### Configuration under which an audio payload completes -/

/-- Every codeword walk ends at a leaf: no child is absent (43_codebook.md R225). -/
def HuffTree.complete : HuffTree → Bool
  | .absent => false
  | .leaf _ => true
  | .node l r => l.complete && r.complete

/-- The entries at the leaves. -/
def HuffTree.leaves : HuffTree → List Nat
  | .absent => []
  | .leaf e => [e]
  | .node l r => l.leaves ++ r.leaves

/-- Book `b` decodes every bit string to an entry. -/
def scalarReady (books : List Codebook) (b : Nat) : Prop := ∃ k, books[b]? = some k ∧ k.tree.complete = true

/-- Book `b` decodes every bit string to a vector (43_codebook.md R226, R227). -/
def vectorReady (books : List Codebook) (b : Nat) : Prop :=
  ∃ k, books[b]? = some k ∧ k.tree.complete = true ∧ k.lookup ≠ 0 ∧ k.dims ≠ 0
    ∧ ∀ e ∈ k.tree.leaves, ∀ i < k.dims, vqOffset k e i < k.mult.length

/-- A floor whose payload completes whatever bits follow (44_floor1.md R257). -/
def floorReady (books : List Codebook) (f : FloorConfig) : Prop :=
  ∀ c ∈ f.partClass, ∃ k, f.classes[c]? = some k ∧ k.books.length = 2 ^ k.sub
    ∧ (k.sub ≠ 0 → ∃ m, k.master = some m ∧ scalarReady books m)
    ∧ ∀ b ∈ k.books, ∀ i, b = some i → scalarReady books i

/-- A residue whose payload completes whatever bits follow (45_residue.md R284 to R288): the books are fit, and in a
type-1 partition the vectors end where the partition ends. -/
def residueReady (books : List Codebook) (c : ResidueConfig) : Prop :=
  (∃ k, books[c.classbook]? = some k ∧ k.tree.complete = true ∧ k.dims ≠ 0)
    ∧ 0 < c.classifications ∧ c.books.length = c.classifications
    ∧ ∀ row ∈ c.books, row.length = 8 ∧ ∀ b ∈ row, ∀ i, b = some i → vectorReady books i
        ∧ (c.type = .t0 ∨ ∀ k, books[i]? = some k → c.psize % k.dims = 0)

end Sys2Proof.Machine
end

