-- ==== Sys2Proof/Certificates/Slice0/Obligations.lean ====
section
/-! DEFINITION. The statements for the provers. Each docstring says which rules of spec/ the statement formalises. `ReadBy`,
`AbortedAs`, `stepN` and the first failing check of a unit (`idHdrError` and so on) are in Safety.lean. A frame is written as
`t = { s with f := t.f, ... }`: every field of State but the named ones is unchanged. -/

open Sys2Proof Sys2Proof.Machine

/-! ### Encoding (30_encoding.md) -/

/-- Words written out from the layouts of 30_encoding.md R82 to R93 decode to the instructions they stand for. -/
def Obligations.DecodesWrittenWords : Prop :=
  decode .setupHdr (bitsOfBytes [5, 0x76, 0x6F, 0x72, 0x62, 0x69, 0x73, 2]) = .ok (.setupHdr 2) []
    ∧ decode (.codebook 0) (bitsOfBytes [0x42, 0x43, 0x56, 0x03, 0x01, 0x08, 0x00, 0x02])
      = .ok (.codebook 0x0103 0x020008) []
    ∧ decode (.lengths 2) [false, false, true, false, true, false, false, false, false, false, false, true]
      = .ok (.cbLenDense [5, 16]) []
    ∧ decode (.lengths 2) [false, true, false, true, true, true, false, false, false]
      = .ok (.cbLenSparse [none, some 3]) []
    ∧ decode (.lengths 2) [true, true, false, false, false, false, false, true] = .ok (.cbLenOrdered 1 [2]) []
    ∧ decode (.time 0) (bitsOf 16 0) = .ok .timeEntry []
    ∧ decode (.mode 0) ([true] ++ bitsOf 32 0 ++ [true, true, false, false, false, false, false, false])
      = .ok (.mode true 3) []
    ∧ decode (.audio 3) [false, false, true] = .ok (.audioPacket 2) []
    ∧ decode .window [false, true] = .ok (.windowFlags false true) []
    ∧ decode (.floorPayload 64) [true, true, false, false, false, false, false, false, true, false, false, false, false]
      = .ok (.floor1PayloadPresent 1 2) []

/-- Decode and encode agree: whatever follows it in the packet, the encoding of a well-formed instruction decodes to it,
and exactly what follows is left (30_encoding.md R80 to R95). -/
def Obligations.EncodeThenDecode : Prop :=
  ∀ (c : Ctx) (i : Instr) (rest : List Bool), i.wf c = true → decode c (encode c i ++ rest) = .ok i rest

/-- Each word has one meaning: when the bits hold what was decoded, they are the encoding of a well-formed instruction,
followed by what is left (30_encoding.md R80 to R95). -/
def Obligations.DecodeThenEncode : Prop :=
  ∀ (c : Ctx) (bs : List Bool) (i : Instr) (rest : List Bool), decode c bs = .ok i rest →
    (encode c i).length ≤ bs.length → i.wf c = true ∧ bs = encode c i ++ rest

/-- Every illegal selector of a packet is refused with its cause and index, and with the widths of the fields read up to it
(30_encoding.md R97, 42_headers.md R171, 60_exceptions.md R352). The selectors of a page are in PageFailures. -/
def Obligations.IllegalSelectors : Prop :=
  ∀ bs : List Bool,
    (∀ t, (takeNat 16 bs).1 ≠ 0 → ∃ h, decode (.time t) bs = .illegal .timeNonzero t [16] h)
    ∧ (∀ k, (takeNat 16 bs).1 ≠ 1 → ∃ h, decode (.floor k) bs = .illegal .floorType k [16] h)
    ∧ (∀ k, 2 < (takeNat 16 bs).1 → ∃ h, decode (.residue k) bs = .illegal .resType k [16] h)
    ∧ (∀ k ch, (takeNat 16 bs).1 ≠ 0 → ∃ h, decode (.mapping k ch) bs = .illegal .mapType k [16] h)
    ∧ (∀ b, (takeNat 24 bs).1 ≠ 0x564342 → ∃ h, decode (.codebook b) bs = .illegal .cbSync b [24] h)
    ∧ (∀ b n d r, 2 < (takeNat 4 bs).1 → decode (.lookup b n d r) bs = .illegal .cbLookup b [4] (takeNat 4 bs).1)
    ∧ (∀ k, (takeNat 16 (bs.drop 1)).1 ≠ 0 → ∃ h, decode (.mode k) bs = .illegal .modeWindow k [1, 16] h)
    ∧ (∀ k, (takeNat 16 (bs.drop 1)).1 = 0 → (takeNat 16 (bs.drop 17)).1 ≠ 0 →
        ∃ h, decode (.mode k) bs = .illegal .modeTransform k [1, 16, 16] h)
    ∧ (∀ n, bs.headD false = true → ∃ h, decode (.audio n) bs = .illegal .audioType 0 [1] h)
    ∧ (∀ c t, (c, t) ∈ [(Ctx.idHdr, 1), (Ctx.commentHdr, 3), (Ctx.setupHdr, 5)] →
        ((takeNat 8 bs).1 ≠ t → ∃ h, decode c bs = .illegal .hdrType (takeNat 8 bs).1 [8] h)
        ∧ ∀ k < 6, (takeNat 8 bs).1 = t →
          (∀ j < k, (takeNat 8 (bs.drop (8 + 8 * j))).1 = [0x76, 0x6F, 0x72, 0x62, 0x69, 0x73].getD j 0) →
          (takeNat 8 (bs.drop (8 + 8 * k))).1 ≠ [0x76, 0x6F, 0x72, 0x62, 0x69, 0x73].getD k 0 →
          ∃ h, decode c bs = .illegal .hdrMagic k (List.replicate (k + 2) 8) h)

/-! ### The step -/

/-- A step runs the decoded instruction: of the packet, in the context of the sequencer's place, or of the source, when
`next_packet` needs a page; and a core in `IDLE`, `DONE` or `ERROR` takes no step (42_headers.md R170,
40_ogg_demuxer.md R127). How the sequencer divides a core step is the model's choice (log 1, log 22). -/
def Obligations.StepRunsDecoded : Prop :=
  ∀ s : State, s.hostQ = [] →
    (s.phase.busy = true →
      (∀ c i rest, s.ctx = some c → decode c s.reader.rest = .ok i rest → step s = exec i s)
      ∧ (∀ b p, s.seq = .assemble b → s.needsPage = true → decodePage (srcBytes s.src) = .ok p →
          step s = exec (.oggPage p) s))
    ∧ (s.phase.busy = false → step s = .next s)

/-- An illegal selector in the packet: the fields up to it are read, and the abort is taken; nothing else is written but what
the rule writes before its check, the lookup type of the codebook or the mode with its block flag (30_encoding.md R97,
43_codebook.md R215, 42_headers.md R182, 60_exceptions.md R351). The other fields of that mode are the model's (log 7). -/
def Obligations.StepTakesIllegal : Prop :=
  ∀ (s : State) (c : Ctx) (e : ErrCode) (k : Nat) (ws : List Nat) (h : Nat), s.hostQ = [] → s.phase.busy = true →
    s.ctx = some c → decode c s.reader.rest = .illegal e k ws h →
    ∃ t, step s = .next t ∧ AbortedAs s t e k
      ∧ t = { s with
          pktBitpos := t.pktBitpos, warn := t.warn, phase := t.phase, err := t.err, view := t.view
          codebooks := t.codebooks, modes := t.modes }
      ∧ (e = .cbLookup → ∃ books b, s.codebooks = books ++ [b]
          ∧ t.codebooks = books ++ [{ b with lookup := packetField s.pkt 4 s.pktBitpos }])
      ∧ (e ≠ .cbLookup → t.codebooks = s.codebooks)
      ∧ (e = .modeWindow ∨ e = .modeTransform →
          t.modes = s.modes ++
            [{ blockflag := packetBit s.pkt s.pktBitpos, windowtype := 0, transformtype := 0, mapping := 0 }])
      ∧ (e ≠ .modeWindow → e ≠ .modeTransform → t.modes = s.modes)
      ∧ (s.Inv → ReadBy s t ws)

/-! ### The bit reader (41_bitreader.md) -/

/-- `read_bits(n)`: bit `i` of the value is the packet's bit `i` places after the cursor, and 0 past the packet's end; more
than 32 bits are read as 32, with one clamp warning; the cursor stops at the end, with one exhaustion warning for the call;
a read of 0 bits does nothing (41_bitreader.md R151 to R154). -/
def Obligations.ReadBits : Prop :=
  ∀ (n : Nat) (r : Reader), r.pos ≤ 8 * r.bytes.length →
    (∀ i, (r.readBits n).1.testBit i
      = (decide (i < min n 32) && decide (r.pos + i < 8 * r.bytes.length)
          && (r.bytes.getD ((r.pos + i) / 8) 0).toNat.testBit ((r.pos + i) % 8)))
    ∧ (r.readBits n).2.bytes = r.bytes
    ∧ (r.readBits n).2.pos = min (r.pos + min n 32) (8 * r.bytes.length)
    ∧ (r.readBits n).2.exhausted = r.exhausted + (if 8 * r.bytes.length < r.pos + min n 32 then 1 else 0)
    ∧ (r.readBits n).2.clamped = r.clamped + (if 32 < n then 1 else 0)
    ∧ r.readBits 0 = (0, r)

/-- The decoder and the reader see the same bits (20_memory.md R64), and a run of discarded reads made as one cursor move
comes out as if each field were read (42_headers.md R175). -/
def Obligations.ReadsAgree : Prop :=
  (∀ (n : Nat) (r : Reader), n ≤ 32 → r.pos ≤ 8 * r.bytes.length →
    takeNat n r.rest = ((r.readBits n).1, (r.skip n).rest))
  ∧ ∀ (w k : Nat) (r : Reader), 1 ≤ w → w ≤ 32 → r.pos ≤ 8 * r.bytes.length → r.discard w k = r.skipEach w k

/-! ### Pages and packets (40_ogg_demuxer.md) -/

/-- A page whose CRC agrees is taken and becomes current (40_ogg_demuxer.md R126, with the takes and the record of R120).
That `SRC_POS` has room is a premise of the runs the spec admits (10_state.md R23, log 14). -/
def Obligations.PageAccepted : Prop :=
  ∀ (p : Page) (s : State), pageCrc p = p.crc → s.srcPos + p.byteLength < 2 ^ 64 →
    exec (.oggPage p) s = .next { s with
      srcPos := s.srcPos + (27 + p.segs.length + p.payload.length)
      src := s.src.drop (27 + p.segs.length + p.payload.length)
      pg :=
        { capture := 0x5367674F, version := 0, htype := p.htype.zeroExtend 8, granule := p.granule, serial := p.serial
          sequence := p.sequence, crc := p.crc, nseg := BitVec.ofNat 8 p.segs.length, seg := p.segs
          payload := p.payload }
      pageValid := true
      segCursor := 0
      payCursor := 0
      cnt :=
        { s.cnt with
          pagesAccepted := min (s.cnt.pagesAccepted + 1) (2 ^ 32 - 1)
          lastGranule := p.granule
          lastSerial := p.serial
          lastSequence := p.sequence } }

/-- A page whose CRC disagrees raises E_PAGE_CRC and is not accepted; and every single-bit change in the payload makes the
check fail (40_ogg_demuxer.md R125). -/
def Obligations.PageCrcCheck : Prop :=
  (∀ (p : Page) (s : State), pageCrc p ≠ p.crc → s.srcPos + p.byteLength < 2 ^ 64 →
    ∃ t, exec (.oggPage p) s = .next t ∧ AbortedAs s t .pageCrc s.cnt.pagesAccepted
      ∧ t = { s with
          srcPos := s.srcPos + p.byteLength
          src := s.src.drop p.byteLength
          pg :=
            { capture := 0x5367674F, version := 0, htype := p.htype.zeroExtend 8, granule := p.granule
              serial := p.serial, sequence := p.sequence, crc := p.crc, nseg := BitVec.ofNat 8 p.segs.length
              seg := p.segs, payload := p.payload }
          phase := t.phase, err := t.err, view := t.view })
  ∧ ∀ (p : Page) (j k : Nat), j < p.payload.length → k < 8 → pageCrc p = p.crc →
      pageCrc (flipPayload p j k) ≠ (flipPayload p j k).crc

/-- A page that does not come: a header check that fails, in field order, after 27 bytes (40_ogg_demuxer.md R121); the end of
the stream inside a page (R120); a failing source, whose failed request is not counted (60_exceptions.md R355); and a source
that has not answered yet, which is waited for (log 5). The page record is written as far as the rule goes before the abort
(R120, R121): `partlyRead` says what it holds after a part of a page. That the failing answer is used up and that the end of the
stream stays answered are the model's (log 4), and so is how long its two lists are after a part of a page (log 6). -/
def Obligations.PageFailures : Prop :=
  ∀ (s : State) (b : Bool) (bytes : List Byte) (after : List SrcAnswer), s.hostQ = [] → s.phase.busy = true →
    s.seq = .assemble b → s.needsPage = true → s.src = bytes.map .byte ++ after → s.srcPos + bytes.length < 2 ^ 64 →
    (27 ≤ bytes.length →
      ∀ c, (c = .pageCapture ∧ leNat (bytes.take 4) ≠ 0x5367674F
          ∨ c = .pageVersion ∧ leNat (bytes.take 4) = 0x5367674F ∧ bytes.getD 4 0 ≠ 0
          ∨ c = .pageHtype ∧ leNat (bytes.take 4) = 0x5367674F ∧ bytes.getD 4 0 = 0 ∧ 7 < (bytes.getD 5 0).toNat) →
        ∃ t, step s = .next t ∧ AbortedAs s t c s.cnt.pagesAccepted
          ∧ t = { s with
              srcPos := s.srcPos + 27, src := s.src.drop 27
              pg := { s.pg with
                capture := BitVec.ofNat 32 (leNat (bytes.take 4))
                version := if c = .pageCapture then s.pg.version else bytes.getD 4 0
                htype := if c = .pageHtype then bytes.getD 5 0 else s.pg.htype }
              phase := t.phase, err := t.err, view := t.view })
    ∧ (decodePage bytes = .short →
        (after.head? = some .eos → bytes ≠ [] →
          ∃ t, step s = .next t ∧ AbortedAs s t .pageTruncated s.cnt.pagesAccepted
            ∧ t = { s with
                srcPos := s.srcPos + bytes.length, src := after, pg := t.pg, phase := t.phase, err := t.err
                view := t.view }
            ∧ partlyRead bytes s.pg t.pg)
        ∧ (after.head? = some .ioFail →
          ∃ t, step s = .next t ∧ AbortedAs s t .io (s.srcPos + bytes.length)
            ∧ t = { s with
                srcPos := s.srcPos + bytes.length, src := after.tail, pg := t.pg, phase := t.phase, err := t.err
                view := t.view }
            ∧ partlyRead bytes s.pg t.pg)
        ∧ (after = [] → step s = .next s))

/-- The end of the stream as the first byte of a page: an error inside a packet, `DONE` in `AUDIO`, an error before the
headers are complete (40_ogg_demuxer.md R127, R128). -/
def Obligations.EndOfStream : Prop :=
  ∀ (s : State) (b : Bool) (after : List SrcAnswer), s.hostQ = [] → s.phase.busy = true → s.seq = .assemble b →
    s.needsPage = true → s.src = .eos :: after →
    (b = false → s.phase = .audio →
      ∃ t, step s = .next t ∧ t = { s with phase := .done, seq := .boundary, view := t.view } ∧ t.view = t.mirror)
    ∧ (b = true ∨ s.phase ≠ .audio →
      ∃ t, step s = .next t ∧ AbortedAs s t .streamTruncated s.packetNo
        ∧ t = { s with phase := t.phase, err := t.err, view := t.view })

/-- Packet assembly on a page: from a fresh packet or one that continues, the segments of 255 bytes and the first shorter
one are appended in order, and the packet ends with it; when the page's table ends with segments of 255 bytes, the packet
continues, and another page is needed; a segment that does not fit in the packet buffer raises E_CAPACITY
(40_ogg_demuxer.md R127, 30_encoding.md R81). -/
def Obligations.PacketAssembly : Prop :=
  (∀ s : State, s.hostQ = [] → s.phase.busy = true → s.seq = .boundary →
    step s = .next { s with pkt := [], pktBitpos := 0, pktContinuing := false, seq := .assemble false })
  ∧ (∀ (s : State) (b : Bool) (m : Nat) (l : Byte), s.hostQ = [] → s.phase.busy = true → s.seq = .assemble b →
      s.pageValid = true → s.pageOk → l.toNat < 255 →
      (s.pg.seg.drop s.segCursor).take (m + 1) = List.replicate m 255 ++ [l] →
      s.pkt.length + (255 * m + l.toNat) ≤ s.params.maxPacketBytes →
      stepN (m + 1) s = some { s with
        pkt := s.pkt ++ (s.pg.payload.drop s.payCursor).take (255 * m + l.toNat)
        payCursor := s.payCursor + (255 * m + l.toNat)
        segCursor := s.segCursor + (m + 1)
        pktContinuing := false
        seq := .packet })
  ∧ (∀ (s : State) (b : Bool) (m : Nat), s.hostQ = [] → s.phase.busy = true → s.seq = .assemble b →
      s.pageValid = true → s.pageOk → 0 < m → s.pg.seg.drop s.segCursor = List.replicate m 255 →
      s.pkt.length + 255 * m ≤ s.params.maxPacketBytes →
      ∃ t, stepN m s = some t
        ∧ t = { s with
            pkt := s.pkt ++ (s.pg.payload.drop s.payCursor).take (255 * m)
            payCursor := s.payCursor + 255 * m
            segCursor := s.segCursor + m
            pktContinuing := true
            seq := .assemble true }
        ∧ t.needsPage = true)
  ∧ ∀ (s : State) (b : Bool) (l : Byte), s.hostQ = [] → s.phase.busy = true → s.seq = .assemble b →
      s.pageValid = true → s.pageOk → s.pg.seg[s.segCursor]? = some l →
      s.params.maxPacketBytes < s.pkt.length + l.toNat →
      ∃ t, step s = .next t ∧ AbortedAs s t .capacity 1
        ∧ t = { s with segCursor := s.segCursor + 1, phase := t.phase, err := t.err, view := t.view }

/-! ### Header packets (42_headers.md) -/

/-- An identification header with no failing check: its fields are committed, the phase advances, and the packet is complete
(42_headers.md R172 to R174, 40_ogg_demuxer.md R131). That `PACKET_NO` has room is a premise of the runs the spec admits
(10_state.md R23, log 14). -/
def Obligations.IdHeaderAccepted : Prop :=
  ∀ (f : IdFields) (s : State), idHdrError f = none → s.packetNo + 1 < 2 ^ 32 →
    ∃ t, exec (.idHdr f) s = .next t
      ∧ t = { s with
          pktBitpos := t.pktBitpos, warn := t.warn, phase := .hdrComment, seq := .boundary
          packetNo := s.packetNo + 1
          cnt := { s.cnt with packetsDone := min (s.cnt.packetsDone + 1) (2 ^ 32 - 1) }
          cfg :=
            { s.cfg with
              channels := f.channels.toNat, rate := f.rate, brMax := f.brMax.toInt, brNom := f.brNom.toInt
              brMin := f.brMin.toInt, e0 := f.e0.toNat, e1 := f.e1.toNat, bs0 := 2 ^ f.e0.toNat
              bs1 := 2 ^ f.e1.toNat }
          view := t.view }
      ∧ t.view = t.mirror
      ∧ (s.Inv → ReadBy s t (List.replicate 7 8 ++ [32, 8, 32, 32, 32, 32, 4, 4, 1]))

/-- An identification header with a failing check: the first one, in field order, raises with its cause and index; no
configuration field changes, and no field after the failing one is read (42_headers.md R172 to R174, 60_exceptions.md R353). -/
def Obligations.IdHeaderRejected : Prop :=
  ∀ (f : IdFields) (s : State) (c : ErrCode) (k n : Nat), idHdrError f = some (c, k, n) →
    ∃ t, exec (.idHdr f) s = .next t ∧ AbortedAs s t c k
      ∧ t = { s with
          pktBitpos := t.pktBitpos, warn := t.warn, phase := t.phase, err := t.err, view := t.view }
      ∧ (s.Inv → ReadBy s t ((List.replicate 7 8 ++ [32, 8, 32, 32, 32, 32, 4, 4, 1]).take n))

/-- A comment header: with the framing bit 1, the two lengths are kept and the packet is complete; with 0, E_HDR_FRAMING 1 and
no configuration field changes; its strings are read and not kept (42_headers.md R175, R183). -/
def Obligations.CommentHeader : Prop :=
  ∀ (f : CommentFields) (s : State),
    (f.framing = true → s.packetNo + 1 < 2 ^ 32 →
      ∃ t, exec (.commentHdr f) s = .next t
        ∧ t = { s with
            pktBitpos := t.pktBitpos, warn := t.warn, phase := .hdrSetup, seq := .boundary
            packetNo := s.packetNo + 1
            cnt := { s.cnt with packetsDone := min (s.cnt.packetsDone + 1) (2 ^ 32 - 1) }
            cfg := { s.cfg with vendorLen := f.vendorLen, commentCount := f.count }
            view := t.view }
        ∧ t.view = t.mirror
        ∧ (s.Inv → f.wf = true →
            ReadBy s t (fieldWidths .commentHdr (.commentHdr f))))
    ∧ (f.framing = false →
      ∃ t, exec (.commentHdr f) s = .next t ∧ AbortedAs s t .hdrFraming 1
        ∧ t = { s with
            pktBitpos := t.pktBitpos, warn := t.warn, phase := t.phase, err := t.err, view := t.view }
        ∧ (s.Inv → f.wf = true → ReadBy s t (fieldWidths .commentHdr (.commentHdr f))))

/-- The setup header: its prefix and codebook count; each later section's count, one more than its 6 bits; the framing bit
after the last mode, which completes the packet and enters `AUDIO`, or raises E_HDR_FRAMING 2 (42_headers.md R176, R183,
R185). The division into these acts is the model's (log 2). -/
def Obligations.SetupHeader : Prop :=
  (∀ (n : BitVec 8) (s : State), ∃ t, exec (.setupHdr n) s = .next t
    ∧ t = { s with pktBitpos := t.pktBitpos, warn := t.warn, nCodebooks := n.toNat + 1, seq := .codebook }
    ∧ (s.Inv → ReadBy s t (List.replicate 8 8)))
  ∧ (∀ (s : State) (k : Section), s.hostQ = [] → s.phase.busy = true → s.seq = .count k →
      ∃ t, step s = .next t
        ∧ t = { s with
            pktBitpos := t.pktBitpos, warn := t.warn, nFloors := t.nFloors, nResidues := t.nResidues
            nMappings := t.nMappings, nModes := t.nModes, seq := t.seq }
        ∧ t.nFloors = (if k = .floor then packetField s.pkt 6 s.pktBitpos + 1 else s.nFloors)
        ∧ t.nResidues = (if k = .residue then packetField s.pkt 6 s.pktBitpos + 1 else s.nResidues)
        ∧ t.nMappings = (if k = .mapping then packetField s.pkt 6 s.pktBitpos + 1 else s.nMappings)
        ∧ t.nModes = (if k = .mode then packetField s.pkt 6 s.pktBitpos + 1 else s.nModes)
        ∧ t.seq =
          (match k with
            | .time => .time 0 (packetField s.pkt 6 s.pktBitpos + 1)
            | .floor => .floor
            | .residue => .residue
            | .mapping => .mapping
            | .mode => .mode)
        ∧ (s.Inv → ReadBy s t [6]))
  ∧ (∀ s : State, s.hostQ = [] → s.phase.busy = true → s.seq = .framing → packetBit s.pkt s.pktBitpos = true →
      s.packetNo + 1 < 2 ^ 32 →
      ∃ t, step s = .next t
        ∧ t = { s with
            pktBitpos := t.pktBitpos, warn := t.warn, phase := .audio, seq := .boundary, packetNo := s.packetNo + 1
            cnt := { s.cnt with packetsDone := min (s.cnt.packetsDone + 1) (2 ^ 32 - 1) }
            view := t.view }
        ∧ t.view = t.mirror ∧ (s.Inv → ReadBy s t [1]))
  ∧ (∀ s : State, s.hostQ = [] → s.phase.busy = true → s.seq = .framing → packetBit s.pkt s.pktBitpos = false →
      ∃ t, step s = .next t ∧ AbortedAs s t .hdrFraming 2
        ∧ t = { s with
            pktBitpos := t.pktBitpos, warn := t.warn, phase := t.phase, err := t.err, view := t.view }
        ∧ (s.Inv → ReadBy s t [1]))

/-- A time entry is read and nothing is stored (42_headers.md R177). -/
def Obligations.TimeEntry : Prop :=
  ∀ (s : State) (k n : Nat), s.seq = .time k n →
    ∃ t, exec .timeEntry s = .next t
      ∧ t = { s with
          pktBitpos := t.pktBitpos, warn := t.warn
          seq := if k + 1 < n then .time (k + 1) n else .count .floor }
      ∧ (s.Inv → ReadBy s t [16])

/-! ### Codebooks (43_codebook.md) -/

/-- The head of a codebook: a new entry with its dimension and its number of entries (43_codebook.md R210). The fields not yet
read are the model's (log 7). -/
def Obligations.CodebookHead : Prop :=
  ∀ (dims : BitVec 16) (entries : BitVec 24) (s : State), ∃ t, exec (.codebook dims entries) s = .next t
    ∧ t = { s with pktBitpos := t.pktBitpos, warn := t.warn, codebooks := t.codebooks, seq := .lengths }
    ∧ (∃ b, t.codebooks = s.codebooks ++ [b] ∧ b.dims = dims.toNat ∧ b.entries = entries.toNat)
    ∧ (s.Inv → ReadBy s t [24, 16, 24])

/-- Dense and sparse lengths: entry `e` gets its field plus one, an absent entry none (43_codebook.md R211, R212). -/
def Obligations.CodebookLengths : Prop :=
  ∀ (s : State) (books : List Codebook) (b : Codebook), s.codebooks = books ++ [b] →
    (∀ lens : List (BitVec 5), ∃ t, exec (.cbLenDense lens) s = .next t
      ∧ t = { s with
          pktBitpos := t.pktBitpos, warn := t.warn, seq := .lookup
          codebooks := books ++ [{ b with len := lens.map (fun v => some (v.toNat + 1)) }] }
      ∧ (s.Inv → ReadBy s t ([1, 1] ++ List.replicate lens.length 5)))
    ∧ (∀ lens : List (Option (BitVec 5)), ∃ t, exec (.cbLenSparse lens) s = .next t
      ∧ t = { s with
          pktBitpos := t.pktBitpos, warn := t.warn, seq := .lookup
          codebooks := books ++ [{ b with len := lens.map (fun v => v.map (fun x => x.toNat + 1)) }] }
      ∧ (s.Inv → ReadBy s t ([1, 1] ++ lens.flatMap (fun v => if v.isSome then [1, 5] else [1]))))

/-- Ordered lengths: run `k` of the counts gives its entries the initial length plus `k`; when the counts do not make up the
entries, E_CB_ORDERED is raised for the book when the last of them is read (43_codebook.md R214, 60_exceptions.md R351). -/
def Obligations.OrderedLengths : Prop :=
  ∀ (s : State) (books : List Codebook) (b : Codebook) (init : BitVec 5) (counts : List Nat),
    s.codebooks = books ++ [b] → orderedWf b.entries (32 - init.toNat) 0 counts = true →
    (total counts = b.entries →
      ∃ t, exec (.cbLenOrdered init counts) s = .next t
        ∧ t = { s with
            pktBitpos := t.pktBitpos, warn := t.warn, seq := .lookup
            codebooks := books ++ [{ b with
              len := (counts.zipIdx).flatMap (fun p => List.replicate p.1 (some (init.toNat + 1 + p.2))) }] }
        ∧ (s.Inv → s.Unclamped →
            ReadBy s t (fieldWidths (.lengths b.entries) (.cbLenOrdered init counts))))
    ∧ (total counts ≠ b.entries →
      ∃ t, exec (.cbLenOrdered init counts) s = .next t ∧ AbortedAs s t .cbOrdered books.length
        ∧ t = { s with
            pktBitpos := t.pktBitpos, warn := t.warn, phase := t.phase, err := t.err, view := t.view
            codebooks := t.codebooks }
        ∧ (∃ len, t.codebooks = books ++ [{ b with len := len }])
        ∧ (s.Inv → s.Unclamped →
            ReadBy s t (fieldWidths (.lengths b.entries) (.cbLenOrdered init counts))))

/-- The lookup fields of the three types (43_codebook.md R215): the values are unpacked, and type 1 and 2 read as many
multiplicands as the type says, when they fit in the store. -/
def Obligations.LookupFields : Prop :=
  ∀ (s : State) (books : List Codebook) (b : Codebook), s.codebooks = books ++ [b] →
    (∃ t, exec .cbLookup0 s = .next t
      ∧ t = { s with
          pktBitpos := t.pktBitpos, warn := t.warn, seq := .huffBuild
          codebooks := books ++ [{ b with lookup := 0 }] }
      ∧ (s.Inv → ReadBy s t [4]))
    ∧ (∀ f : VqFields, 1 ≤ b.dims → f.mult.length = lookup1Values b.entries b.dims →
        s.multStored + lookup1Values b.entries b.dims ≤ s.params.maxMultiplicands →
        ∃ t, exec (.cbLookup1 f) s = .next t
          ∧ t = { s with
              pktBitpos := t.pktBitpos, warn := t.warn, seq := .huffBuild
              codebooks := books ++ [{ b with
                lookup := 1, minimum := float32Unpack f.minimum, delta := float32Unpack f.delta
                valueBits := f.valueBitsM1.toNat + 1, seq := f.seq
                lookupValues := lookup1Values b.entries b.dims, mult := f.mult }] }
          ∧ (s.Inv → ReadBy s t ([4, 32, 32, 4, 1] ++
            List.replicate (lookup1Values b.entries b.dims) (f.valueBitsM1.toNat + 1))))
    ∧ (∀ f : VqFields, f.mult.length = b.entries * b.dims →
        s.multStored + b.entries * b.dims ≤ s.params.maxMultiplicands →
        ∃ t, exec (.cbLookup2 f) s = .next t
          ∧ t = { s with
              pktBitpos := t.pktBitpos, warn := t.warn, seq := .huffBuild
              codebooks := books ++ [{ b with
                lookup := 2, minimum := float32Unpack f.minimum, delta := float32Unpack f.delta
                valueBits := f.valueBitsM1.toNat + 1, seq := f.seq
                lookupValues := b.entries * b.dims, mult := f.mult }] }
          ∧ (s.Inv → ReadBy s t ([4, 32, 32, 4, 1] ++ List.replicate (b.entries * b.dims) (f.valueBitsM1.toNat + 1))))

/-- The two checks after the lookup's head, in order: type 1 with dimension 0, then the multiplicand store; no multiplicand is
read, and the head is written (43_codebook.md R215, 20_memory.md R70). -/
def Obligations.LookupErrors : Prop :=
  ∀ (s : State) (books : List Codebook) (b : Codebook) (f : VqFields), s.codebooks = books ++ [b] →
    (b.dims = 0 →
      ∃ t, exec (.cbLookup1 f) s = .next t ∧ AbortedAs s t .cbLookup1Dim0 books.length
        ∧ t = { s with
            pktBitpos := t.pktBitpos, warn := t.warn, phase := t.phase, err := t.err, view := t.view
            codebooks := books ++ [{ b with
              lookup := 1, minimum := float32Unpack f.minimum, delta := float32Unpack f.delta
              valueBits := f.valueBitsM1.toNat + 1, seq := f.seq }] }
        ∧ (s.Inv → ReadBy s t [4, 32, 32, 4, 1]))
    ∧ (1 ≤ b.dims → s.params.maxMultiplicands < s.multStored + lookup1Values b.entries b.dims →
      ∃ t, exec (.cbLookup1 f) s = .next t ∧ AbortedAs s t .capacity 3
        ∧ t = { s with
            pktBitpos := t.pktBitpos, warn := t.warn, phase := t.phase, err := t.err, view := t.view
            codebooks := books ++ [{ b with
              lookup := 1, minimum := float32Unpack f.minimum, delta := float32Unpack f.delta
              valueBits := f.valueBitsM1.toNat + 1, seq := f.seq }] }
        ∧ (s.Inv → ReadBy s t [4, 32, 32, 4, 1]))
    ∧ (s.params.maxMultiplicands < s.multStored + b.entries * b.dims →
      ∃ t, exec (.cbLookup2 f) s = .next t ∧ AbortedAs s t .capacity 3
        ∧ t = { s with
            pktBitpos := t.pktBitpos, warn := t.warn, phase := t.phase, err := t.err, view := t.view
            codebooks := books ++ [{ b with
              lookup := 2, minimum := float32Unpack f.minimum, delta := float32Unpack f.delta
              valueBits := f.valueBitsM1.toNat + 1, seq := f.seq }] }
        ∧ (s.Inv → ReadBy s t [4, 32, 32, 4, 1]))

/-- `lookup1_values(entries, dims)` is the largest `v` with `v ^ dims ≤ entries` (43_codebook.md R221). -/
def Obligations.Lookup1Values : Prop :=
  ∀ entries dims : Nat, 1 ≤ dims →
    lookup1Values entries dims ^ dims ≤ entries ∧ ∀ v, v ^ dims ≤ entries → v ≤ lookup1Values entries dims

/-- `float32_unpack` (43_codebook.md R220), in units of `2^-149`: with mantissa `m` and exponent field `e`, the value is
`± m * 2^(e - 639)`: exact from `e = 639` on, infinite from `2^128` on, and rounded to the nearest multiple, ties to even,
below; a zero mantissa gives `+0.0`. -/
def Obligations.Float32Unpacked : Prop :=
  ∀ x : BitVec 32,
    (x.toNat % 2 ^ 21 = 0 → float32Unpack x = F32.zero)
    ∧ (x.toNat % 2 ^ 21 ≠ 0 → 639 ≤ x.toNat / 2 ^ 21 % 2 ^ 10 →
        (2 ^ 277 ≤ x.toNat % 2 ^ 21 * 2 ^ (x.toNat / 2 ^ 21 % 2 ^ 10 - 639) → float32Unpack x = .inf x.msb)
        ∧ (x.toNat % 2 ^ 21 * 2 ^ (x.toNat / 2 ^ 21 % 2 ^ 10 - 639) < 2 ^ 277 →
            ∃ q k, float32Unpack x = .fin x.msb q k
              ∧ q * 2 ^ k = x.toNat % 2 ^ 21 * 2 ^ (x.toNat / 2 ^ 21 % 2 ^ 10 - 639)))
    ∧ (x.toNat % 2 ^ 21 ≠ 0 → x.toNat / 2 ^ 21 % 2 ^ 10 < 639 →
        ∃ q, float32Unpack x = .fin x.msb q 0
          ∧ 2 * (x.toNat % 2 ^ 21) ≤ (2 * q + 1) * 2 ^ (639 - x.toNat / 2 ^ 21 % 2 ^ 10)
          ∧ 2 * q * 2 ^ (639 - x.toNat / 2 ^ 21 % 2 ^ 10)
              ≤ 2 * (x.toNat % 2 ^ 21) + 2 ^ (639 - x.toNat / 2 ^ 21 % 2 ^ 10)
          ∧ (2 * (x.toNat % 2 ^ 21) = (2 * q + 1) * 2 ^ (639 - x.toNat / 2 ^ 21 % 2 ^ 10)
              ∨ 2 * q * 2 ^ (639 - x.toNat / 2 ^ 21 % 2 ^ 10)
                = 2 * (x.toNat % 2 ^ 21) + 2 ^ (639 - x.toNat / 2 ^ 21 % 2 ^ 10) → q % 2 = 0))
    ∧ (float32Unpack x).canonical = true

/-- The numeric record (00_scope.md R10). `rnd32`: the result is a canonical binary32 number that no other one is nearer to, the
even one of two that are equally near, and an infinity from half a unit above the largest number on. `fadd`, `fsub` and `fmul`
of numbers are `rnd32` of the exact result, with the sign IEEE 754 gives a zero (log 13), and of NaNs and infinities what
IEEE 754 says; `x > +0.0` is false for a NaN and for both zeros. -/
def Obligations.RoundsToNearest : Prop :=
  (∀ (neg : Bool) (m : Nat) (sh : Int), 0 < m →
    (F32.round neg m sh).canonical = true
    ∧ (((2 ^ 25 - 1) * 2 ^ 252 : ℚ) ≤ (m : ℚ) * (2 : ℚ) ^ sh → F32.round neg m sh = .inf neg)
    ∧ ((m : ℚ) * (2 : ℚ) ^ sh < ((2 ^ 25 - 1) * 2 ^ 252 : ℚ) →
        ∃ q e, F32.round neg m sh = .fin neg q e
          ∧ ∀ q' e', (F32.fin neg q' e').canonical = true →
            |(m : ℚ) * (2 : ℚ) ^ sh - q * 2 ^ e| ≤ |(m : ℚ) * (2 : ℚ) ^ sh - q' * 2 ^ e'|
            ∧ (|(m : ℚ) * (2 : ℚ) ^ sh - q * 2 ^ e| = |(m : ℚ) * (2 : ℚ) ^ sh - q' * 2 ^ e'| →
                (q : ℚ) * 2 ^ e ≠ q' * 2 ^ e' → q % 2 = 0)))
  ∧ (∀ a b : F32, a.isFinite = true → b.isFinite = true →
      F32.isRnd (a.val + b.val) (F32.add a b) ∧ F32.isRnd (a.val - b.val) (F32.sub a b)
        ∧ F32.isRnd (a.val * b.val) (F32.mul a b))
  ∧ (∀ n : Nat, F32.isRnd n (F32.ofNat n))
  ∧ (∀ (x y : Bool) (m e n f : Nat),
      ((F32.fin x m e).val + (F32.fin y n f).val = 0 → F32.add (.fin x m e) (.fin y n f) = .fin (x && y) 0 0)
      ∧ ((F32.fin x m e).val - (F32.fin y n f).val = 0 → F32.sub (.fin x m e) (.fin y n f) = .fin (x && !y) 0 0)
      ∧ ((F32.fin x m e).val * (F32.fin y n f).val = 0 → F32.mul (.fin x m e) (.fin y n f) = .fin (x != y) 0 0))
  ∧ (∀ a : F32, F32.add .nan a = .nan ∧ F32.add a .nan = .nan ∧ F32.sub .nan a = .nan ∧ F32.sub a .nan = .nan
      ∧ F32.mul .nan a = .nan ∧ F32.mul a .nan = .nan)
  ∧ (∀ (x : Bool) (a : F32), a.isFinite = true →
      F32.add (.inf x) a = .inf x ∧ F32.add a (.inf x) = .inf x ∧ F32.sub (.inf x) a = .inf x ∧ F32.sub a (.inf x) = .inf !x
        ∧ (a.isZero = true → F32.mul (.inf x) a = .nan ∧ F32.mul a (.inf x) = .nan))
  ∧ (∀ (x y : Bool) (m e : Nat), m ≠ 0 →
      F32.mul (.inf x) (.fin y m e) = .inf (x != y) ∧ F32.mul (.fin y m e) (.inf x) = .inf (x != y))
  ∧ (∀ x y : Bool, F32.add (.inf x) (.inf y) = (if x = y then .inf x else .nan)
      ∧ F32.sub (.inf x) (.inf y) = (if x = y then .nan else .inf x) ∧ F32.mul (.inf x) (.inf y) = .inf (x != y))
  ∧ ∀ x : F32, x.gtZero = true ↔ x = .inf false ∨ x.isFinite = true ∧ 0 < x.val

/-- `huff_build` (43_codebook.md R222): every used entry gets the least free string of its length, an unused one none; the
build stops at the first used entry with no free string of its length, and only there. -/
def Obligations.HuffmanPlacement : Prop :=
  ∀ lens : List (Option Nat), (∀ l ∈ lens, ∀ n, l = some n → 1 ≤ n) →
    (∀ e l c, lens[e]? = some (some l) → (placeCodes 0 HuffTree.root lens).code[e]? = some (some c) →
      c.length = l ∧ freeBefore (placeCodes 0 HuffTree.root lens).code e c
        ∧ ∀ x : List Bool, x.length = l → freeBefore (placeCodes 0 HuffTree.root lens).code e x →
            codeValue c ≤ codeValue x)
    ∧ (∀ e < (placeCodes 0 HuffTree.root lens).code.length,
        ((placeCodes 0 HuffTree.root lens).code[e]? = some none ↔ lens[e]? = some none))
    ∧ ((placeCodes 0 HuffTree.root lens).complete = true →
        (placeCodes 0 HuffTree.root lens).code.length = lens.length)
    ∧ ((placeCodes 0 HuffTree.root lens).complete = false →
        ∃ l, lens[(placeCodes 0 HuffTree.root lens).code.length]? = some (some l)
          ∧ ∀ x : List Bool, x.length = l →
              ¬ freeBefore (placeCodes 0 HuffTree.root lens).code (placeCodes 0 HuffTree.root lens).code.length x)

/-- The step that builds a book's tree: the codewords and the nodes are stored, or E_CB_OVERSPEC for the book, or E_CAPACITY 2
when the nodes of all books pass the store (43_codebook.md R222, R224). What is written before the abort, the codewords placed so
far and no tree, is the model's (log 7). -/
def Obligations.HuffmanBuild : Prop :=
  ∀ (s : State) (books : List Codebook) (b : Codebook), s.hostQ = [] → s.phase.busy = true → s.seq = .huffBuild →
    s.codebooks = books ++ [b] →
    ((placeCodes 0 HuffTree.root b.len).complete = true →
      huffNodes books + (placeCodes 0 HuffTree.root b.len).tree.nodeCount ≤ s.params.maxHuffNodes →
      step s = .next { s with
        codebooks := books ++ [{ b with
          code := (placeCodes 0 HuffTree.root b.len).code, tree := (placeCodes 0 HuffTree.root b.len).tree }]
        seq := if books.length + 1 < s.nCodebooks then .codebook else .count .time })
    ∧ ((placeCodes 0 HuffTree.root b.len).complete = true →
      s.params.maxHuffNodes < huffNodes books + (placeCodes 0 HuffTree.root b.len).tree.nodeCount →
      ∃ t, step s = .next t ∧ AbortedAs s t .capacity 2
        ∧ t = { s with
            codebooks := books ++ [{ b with code := (placeCodes 0 HuffTree.root b.len).code }]
            phase := t.phase, err := t.err, view := t.view })
    ∧ ((placeCodes 0 HuffTree.root b.len).complete = false →
      ∃ t, step s = .next t ∧ AbortedAs s t .cbOverspec books.length
        ∧ t = { s with
            codebooks := books ++ [{ b with code := (placeCodes 0 HuffTree.root b.len).code }]
            phase := t.phase, err := t.err, view := t.view })

/-- The walk of a built tree reads one bit at a time (43_codebook.md R225): when the next bits, zeros past the packet's end, are
the codeword of an entry, it answers the entry with those bits read; when no codeword is a prefix of what comes, it raises
E_HUFF_INVALID for the book, at the first bit with which what was read is a prefix of no codeword. The node count is the number of prefixes of the codewords (43_codebook.md R224). -/
def Obligations.HuffmanDecode : Prop :=
  ∀ (lens : List (Option Nat)) (b : Nat) (r : Reader), (∀ l ∈ lens, ∀ n, l = some n → 1 ≤ n) →
    (placeCodes 0 HuffTree.root lens).complete = true →
    (∀ (e : Nat) (c : List Bool), (placeCodes 0 HuffTree.root lens).code[e]? = some (some c) → r.bits c.length = c →
      (placeCodes 0 HuffTree.root lens).tree.walk b r = .ok e (r.skipEach 1 c.length))
    ∧ ((∀ (e : Nat) (c : List Bool), (placeCodes 0 HuffTree.root lens).code[e]? = some (some c) → r.bits c.length ≠ c) →
      ∃ k, 1 ≤ k ∧ (placeCodes 0 HuffTree.root lens).tree.walk b r = .bad .huffInvalid b (r.skipEach 1 k)
        ∧ (∀ (e : Nat) (c : List Bool), (placeCodes 0 HuffTree.root lens).code[e]? = some (some c) → ¬ r.bits k <+: c)
        ∧ ∀ j, 1 ≤ j → j < k →
            ∃ (e : Nat) (c : List Bool), (placeCodes 0 HuffTree.root lens).code[e]? = some (some c) ∧ r.bits j <+: c)
    ∧ (placeCodes 0 HuffTree.root lens).tree.nodeCount
      = (([] : List Bool) :: (placeCodes 0 HuffTree.root lens).code.flatMap
          (fun c => (c.getD []).inits)).dedup.length

/-- `vq_vector` (43_codebook.md R226): a book whose multiplicands are as many as its lookup asks gives every entry a vector of
its dimension, each value `fadd(fadd(fmul(m, delta), minimum), last)` with the carry of a sequential book; and `vq_decode`
checks the lookup type, then the dimension, before any bit is read (43_codebook.md R227). -/
def Obligations.VqVectors : Prop :=
  (∀ (b : Codebook) (e : Nat), e < b.entries →
    (b.lookup = 1 ∧ 1 ≤ b.dims ∧ b.lookupValues = lookup1Values b.entries b.dims
      ∨ b.lookup = 2 ∧ b.lookupValues = b.entries * b.dims) →
    b.mult.length = b.lookupValues →
    ∃ v, vqVector b e = some v ∧ v.length = b.dims
      ∧ ∀ i < b.dims,
          v[i]? = some (F32.add
            (F32.add
              (F32.mul
                (F32.ofNat (b.mult.getD
                  (if b.lookup = 1 then e / b.lookupValues ^ i % b.lookupValues else e * b.dims + i) 0))
                b.delta)
              b.minimum)
            (if b.seq ∧ 0 < i then v.getD (i - 1) F32.zero else F32.zero)))
  ∧ ∀ (books : List Codebook) (k : Nat) (b : Codebook) (r : Reader), books[k]? = some b →
      (b.lookup = 0 → vqDecode books k r = .bad .cbNoVq k r)
      ∧ (b.lookup ≠ 0 → b.dims = 0 → vqDecode books k r = .bad .cbZeroDim k r)
      ∧ (b.lookup ≠ 0 → b.dims ≠ 0 → ∀ e r' v, b.tree.walk k r = .ok e r' → vqVector b e = some v →
          vqDecode books k r = .ok v r')

/-! ### Floors (44_floor1.md) -/

/-- A floor with no failing check: the new entry holds the assembled fields (44_floor1.md R250 to R254, R258). -/
def Obligations.FloorAccepted : Prop :=
  ∀ (f : FloorFields) (s : State), floorError s.nCodebooks f = none →
    ∃ t, exec (.floor1 f) s = .next t
      ∧ t = { s with
          pktBitpos := t.pktBitpos, warn := t.warn
          floors := s.floors ++ [
            { type := 1
              partitions := f.partClass.length
              partClass := f.partClass.map BitVec.toNat
              maxClass := (f.partClass.map (fun c => (c.toNat : Int))).foldl max (-1)
              classes := f.classes.map (fun c =>
                { dim := c.dimM1.toNat + 1
                  sub := c.sub.toNat
                  master := c.master.map BitVec.toNat
                  books := c.books.map (fun v => if v = 0 then none else some (v.toNat - 1)) })
              multiplier := f.multM1.toNat + 1
              rangebits := f.rangebits.toNat
              xs := [0, 2 ^ f.rangebits.toNat] ++ f.xs
              values := 2 + f.xs.length }]
          seq := if s.floors.length + 1 < s.nFloors then .floor else .count .residue }
      ∧ (s.Inv → ReadBy s t (fieldWidths (.floor s.floors.length) (.floor1 f)))

/-- A floor with a failing check: a masterbook or subclass book that is no codebook, else an X value 0 after the first two
(44_floor1.md R252, R258); no field after the failing book is read, and all are before the X values are checked (60_exceptions.md
R353). What the failing entry holds is log 7. -/
def Obligations.FloorRejected : Prop :=
  ∀ (f : FloorFields) (s : State) (c : ErrCode), floorError s.nCodebooks f = some c →
    ∃ t, exec (.floor1 f) s = .next t ∧ AbortedAs s t c s.floors.length
      ∧ t = { s with
          pktBitpos := t.pktBitpos, warn := t.warn, phase := t.phase, err := t.err, view := t.view
          floors := t.floors }
      ∧ (∃ x, t.floors = s.floors ++ [x])
      ∧ (s.Inv →
          ReadBy s t (readUpTo (fieldWidths (.floor s.floors.length) (.floor1 f)) (floorFieldsOk s.nCodebooks f)))

/-- A floor payload whose flag is 0: the channel is unused and without residue, and nothing more is read for it
(44_floor1.md R255). -/
def Obligations.FloorPayloadUnused : Prop :=
  ∀ (s : State) (ch : Nat), s.seq = .floorPayload ch →
    ∃ t, exec .floor1PayloadUnused s = .next t
      ∧ t = { s with
          pktBitpos := t.pktBitpos, warn := t.warn
          noResidue := s.noResidue.set ch true
          floorUnused := s.floorUnused.set ch true
          floorUsed := t.floorUsed
          seq := if ch + 1 < s.cfg.channels then .floorPayload (ch + 1) else .curves }
      ∧ (∀ k, k ≠ ch → t.floorUsed[k]? = s.floorUsed[k]?)
      ∧ (∀ k, (t.floorUsed.getD ch []).getD k false = false) ∧ t.floorUsed.length = s.floorUsed.length
      ∧ (s.Inv → ReadBy s t [1])

/-- A floor payload whose flag is 1: the channel is used, and its Y values are the two baseline values and, partition by
partition, one for each slot of the class: the class value is an entry of the masterbook, or 0 without subclass bits; its pieces of
subclass bits, low bits first, name the slots' books; a slot's value is an entry of its book, or 0 without one (44_floor1.md R255,
R257; `PartitionsRead`). For a floor whose books are fit this always completes. A codeword with no leaf, of a masterbook or of
a slot's book, raises E_HUFF_INVALID for the book with the bits up to it read (43_codebook.md R225); that the FLOOR_Y row keeps its old values
then is the model's (log 8). The baseline values are 8, 7, 7
or 6 bits wide (44_floor1.md R256). -/
def Obligations.FloorPayloadPresent : Prop :=
  (∀ (s : State) (ch : Nat) (f : FloorConfig) (y0 y1 w : Nat) (r0 : Reader), s.seq = .floorPayload ch →
    s.channelFloor ch = some f → w = floorYWidth (floorRange f.multiplier) → r0 = s.reader.skips [1, w, w] →
    (s.Inv → r0 = s.reader.after [1, w, w])
    ∧ (floorReady s.codebooks f →
      ∃ t ys r, exec (.floor1PayloadPresent y0 y1) s = .next t ∧ PartitionsRead s.codebooks f f.partClass r0 ys r)
    ∧ (∀ (ys : List Nat) (r : Reader), PartitionsRead s.codebooks f f.partClass r0 ys r →
      ∃ t, exec (.floor1PayloadPresent y0 y1) s = .next t
        ∧ t = { s with
            pktBitpos := r.pos, warn := t.warn
            noResidue := s.noResidue.set ch false
            floorUnused := s.floorUnused.set ch false
            frame := { s.frame with floorY := s.frame.floorY.set ch ([y0, y1] ++ ys) }
            seq := if ch + 1 < s.cfg.channels then .floorPayload (ch + 1) else .curves }
        ∧ ys.length = total (f.partClass.map (fun c => ((f.classes[c]?).map FloorClass.dim).getD 0))
        ∧ (s.Inv → t.warn = s.warn.warned r.exhausted ∧ s.pktBitpos ≤ t.pktBitpos ∧ t.pktBitpos ≤ 8 * s.pkt.length))
    ∧ ∀ (ps qs : List Nat) (p b : Nat) (c : FloorClass) (ys : List Nat) (r1 r' : Reader), f.partClass = ps ++ p :: qs →
      PartitionsRead s.codebooks f ps r0 ys r1 → f.classes[p]? = some c →
      (c.sub ≠ 0 ∧ c.master = some b ∧ huffDecode s.codebooks b r1 = .bad .huffInvalid b r'
        ∨ ∃ cval r2 zs r3, ClassValueRead s.codebooks c r1 cval r2 ∧ zs.length < c.dim
            ∧ SlotsRead s.codebooks c cval 0 r2 zs r3 ∧ slotBook c cval zs.length = some (some b)
            ∧ huffDecode s.codebooks b r3 = .bad .huffInvalid b r') →
      ∃ t, exec (.floor1PayloadPresent y0 y1) s = .next t ∧ AbortedAs s t .huffInvalid b
        ∧ t = { s with
            pktBitpos := r'.pos, warn := t.warn
            noResidue := s.noResidue.set ch false
            floorUnused := s.floorUnused.set ch false
            phase := t.phase, err := t.err, view := t.view }
        ∧ (s.Inv → t.warn = s.warn.warned r'.exhausted))
  ∧ floorYWidth (floorRange 1) = 8 ∧ floorYWidth (floorRange 2) = 7 ∧ floorYWidth (floorRange 3) = 7
  ∧ floorYWidth (floorRange 4) = 6

/-- `low_neighbor` and `high_neighbor` (44_floor1.md R258): the nearest earlier point below and above, the smallest index of
equal ones; the low one is missing exactly when no earlier point lies below. -/
def Obligations.FloorNeighbors : Prop :=
  ∀ (xs : List Nat) (j : Nat),
    (∀ n, lowNeighbor xs j = some n ↔
      (n < j ∧ xs.getD n 0 < xs.getD j 0
        ∧ ∀ k < j, xs.getD k 0 < xs.getD j 0 →
            xs.getD k 0 < xs.getD n 0 ∨ xs.getD k 0 = xs.getD n 0 ∧ n ≤ k))
    ∧ (∀ n, highNeighbor xs j = some n ↔
      (n < j ∧ xs.getD j 0 < xs.getD n 0
        ∧ ∀ k < j, xs.getD j 0 < xs.getD k 0 →
            xs.getD n 0 < xs.getD k 0 ∨ xs.getD k 0 = xs.getD n 0 ∧ n ≤ k))
    ∧ (2 ≤ j → xs.getD 0 0 = 0 → (lowNeighbor xs j = none ↔ xs.getD j 0 = 0))
    ∧ (2 ≤ j → xs.getD j 0 < xs.getD 1 0 → highNeighbor xs j ≠ none)

/-- `render_point` (44_floor1.md R259): from `y0` towards `y1` by the floor of the exact distance, and so between them. -/
def Obligations.RenderPoint : Prop :=
  ∀ (x0 x1 x : Nat) (y0 y1 : Int), x0 < x1 → x0 ≤ x → x ≤ x1 →
    (y0 ≤ y1 → renderPoint x0 y0 x1 y1 x = y0 + ((y1 - y0).toNat * (x - x0) / (x1 - x0) : Nat)
      ∧ y0 ≤ renderPoint x0 y0 x1 y1 x ∧ renderPoint x0 y0 x1 y1 x ≤ y1)
    ∧ (y1 < y0 → renderPoint x0 y0 x1 y1 x = y0 - ((y0 - y1).toNat * (x - x0) / (x1 - x0) : Nat)
      ∧ y1 ≤ renderPoint x0 y0 x1 y1 x ∧ renderPoint x0 y0 x1 y1 x ≤ y0)

/-- Step 2, the sort and the curve (44_floor1.md R260 to R264). Step 2 keeps the two baseline values; each later point gets its
prediction when its raw value is 0, else the value of the rule's three branches; and a point is flagged used when it is one of
the first two, when its raw value is not 0, or when it is a neighbor of a used point. The sort is by X, in construction order
among equals. A segment is the line of `render_point` from its first point up to its second; it is written inside the curve only,
and a segment of no width writes nothing. The curve of sorted points, the first at X 0, has the asked length and is the line
between each two consecutive used points, and flat from the last on. -/
def Obligations.FloorSynthesis : Prop :=
  (∀ (range : Nat) (pred : Int) (v : Nat),
    (2 * min ((range : Int) - pred) pred ≤ v →
      (pred < range - pred → step2Value range pred v = v - pred + pred)
      ∧ (range - pred ≤ pred → step2Value range pred v = pred - v + (range - pred) - 1))
    ∧ ((v : Int) < 2 * min ((range : Int) - pred) pred →
      (v % 2 = 1 → step2Value range pred v = pred - ((v + 1) / 2 : Nat))
      ∧ (v % 2 = 0 → step2Value range pred v = pred + (v / 2 : Nat))))
  ∧ (∀ (f : FloorConfig) (y0 y1 : Nat) (ys : List Nat),
      (∀ j, 2 ≤ j → j < ys.length + 2 → lowNeighbor f.xs j ≠ none ∧ highNeighbor f.xs j ≠ none) →
      ∃ (fin : List Int) (used : List Bool), floorStep2 f (y0 :: y1 :: ys) = some (fin, used)
        ∧ fin.length = ys.length + 2 ∧ used.length = ys.length + 2
        ∧ fin[0]? = some (y0 : Int) ∧ fin[1]? = some (y1 : Int)
        ∧ (∀ j lo hi v, lowNeighbor f.xs (j + 2) = some lo → highNeighbor f.xs (j + 2) = some hi → ys[j]? = some v →
            (v = 0 → fin[j + 2]? = some (renderPoint (f.xs.getD lo 0) (fin.getD lo 0) (f.xs.getD hi 0) (fin.getD hi 0)
              (f.xs.getD (j + 2) 0)))
            ∧ (v ≠ 0 → fin[j + 2]? = some (step2Value (floorRange f.multiplier)
              (renderPoint (f.xs.getD lo 0) (fin.getD lo 0) (f.xs.getD hi 0) (fin.getD hi 0) (f.xs.getD (j + 2) 0)) v)))
        ∧ ∀ j < ys.length + 2,
            (used.getD j false = true ↔
              j < 2 ∨ (y0 :: y1 :: ys).getD j 0 ≠ 0
                ∨ ∃ k < ys.length, ys.getD k 0 ≠ 0
                    ∧ (lowNeighbor f.xs (k + 2) = some j ∨ highNeighbor f.xs (k + 2) = some j)))
  ∧ (∀ (xs : List Nat) (ys : List Int) (us : List Bool),
      (floorPoints xs ys us).length = min xs.length (min ys.length us.length)
      ∧ ∀ (k : Nat) (p : FloorPoint), (floorPoints xs ys us)[k]? = some p →
          xs[k]? = some p.x ∧ ys[k]? = some p.y ∧ us[k]? = some p.used)
  ∧ (∀ ps : List FloorPoint, (sortPoints ps).Perm ps ∧ (sortPoints ps).Pairwise (fun p q => p.x ≤ q.x)
      ∧ ∀ x, (sortPoints ps).filter (fun p => p.x == x) = ps.filter (fun p => p.x == x))
  ∧ (∀ (x0 x1 : Nat) (y0 y1 : Int),
      (lineSegment x0 y0 x1 y1).length = x1 - x0
      ∧ (∀ k < x1 - x0, (lineSegment x0 y0 x1 y1)[k]? = some (renderPoint x0 y0 x1 y1 (x0 + k)))
      ∧ ∀ curve : List Int, (renderLine curve x0 y0 x1 y1).length = curve.length
          ∧ ∀ x < curve.length,
              (x0 ≤ x → x < x1 → (renderLine curve x0 y0 x1 y1)[x]? = some (renderPoint x0 y0 x1 y1 x))
              ∧ (x < x0 ∨ x1 ≤ x → (renderLine curve x0 y0 x1 y1)[x]? = curve[x]?))
  ∧ ∀ (m h : Nat) (p0 : FloorPoint) (ps : List FloorPoint), p0.x = 0 → (p0 :: ps).Pairwise (fun p q => p.x ≤ q.x) →
      (∃ p ∈ ps, p.used = true) →
      (floorCurve m h (p0 :: ps)).length = h
      ∧ (∀ k a b, (curvePoints (p0 :: ps))[k]? = some a → (curvePoints (p0 :: ps))[k + 1]? = some b →
          ∀ x < h, a.x ≤ x → x < b.x →
            (floorCurve m h (p0 :: ps))[x]? = some (renderPoint a.x (a.y * m) b.x (b.y * m) x))
      ∧ ∀ l, (curvePoints (p0 :: ps)).getLast? = some l → ∀ x < h, l.x ≤ x →
          (floorCurve m h (p0 :: ps))[x]? = some (l.y * m)

/-- The floor curves: a frame in which every channel is silent gets all-zero floors and stays without residue
(44_floor1.md R255, R266). A channel's vector is step 2, the sorted curve and, when every amplitude lies in 0..255, the table
sample by sample; else there is none (44_floor1.md R260, R264 to R266). When every channel is silent or has a vector, the step
completes, stores them, and propagates (46_audio_packet.md R302, R303). The first channel with an amplitude outside the table
raises E_FLOOR_AMPLITUDE for it, its used flags written; the other frame buffers then are the model's (log 8). -/
def Obligations.FloorCurves : Prop :=
  (∀ (s : State) (m : MappingConfig), s.hostQ = [] → s.phase.busy = true → s.seq = .curves → s.frameMapping = some m →
    s.frame.floor.length = s.cfg.channels →
    s.floorUnused = List.replicate s.cfg.channels true → s.noResidue = List.replicate s.cfg.channels true →
    (∀ st ∈ m.steps, st.1 < s.cfg.channels ∧ st.2 < s.cfg.channels) →
    step s = .next { s with
      frame := { s.frame with
        floor := List.replicate s.cfg.channels (List.replicate (s.frame.n / 2) F32.zero) }
      seq := m.residueSeq s.cfg.channels 0 })
  ∧ (∀ (p : Params) (h : Nat) (f : FloorConfig) (y : List Nat) (finalY : List Int) (used : List Bool)
      (curve : List Int) (vec : List F32), floorVector p h f y = .ok finalY used curve vec →
      floorStep2 f y = some (finalY, used)
        ∧ curve = floorCurve f.multiplier h (sortPoints (floorPoints f.xs finalY used))
        ∧ curve.length = h ∧ vec.length = h
        ∧ ∀ x < h, ∃ a : Nat, curve[x]? = some (a : Int) ∧ a ≤ 255 ∧ vec[x]? = p.invDb[a]? ∧ a < p.invDb.length)
  ∧ (∀ (p : Params) (h : Nat) (f : FloorConfig) (y : List Nat) (finalY : List Int) (used : List Bool),
      floorStep2 f y = some (finalY, used) →
      ((∀ a ∈ floorCurve f.multiplier h (sortPoints (floorPoints f.xs finalY used)), 0 ≤ a ∧ a ≤ 255) →
        p.invDb.length = 256 →
        ∃ vec, floorVector p h f y
          = .ok finalY used (floorCurve f.multiplier h (sortPoints (floorPoints f.xs finalY used))) vec)
      ∧ ((∃ a ∈ floorCurve f.multiplier h (sortPoints (floorPoints f.xs finalY used)), a < 0 ∨ 255 < a) →
        floorVector p h f y
          = .amplitude finalY used (floorCurve f.multiplier h (sortPoints (floorPoints f.xs finalY used)))))
  ∧ ∀ (s : State) (m : MappingConfig), s.hostQ = [] → s.phase.busy = true → s.seq = .curves →
      s.frameMapping = some m → s.floorRows s.cfg.channels →
      ((∀ ch < s.cfg.channels, s.floorUnused.getD ch false = true
          ∨ ∃ f finalY used curve vec, s.channelFloor ch = some f
            ∧ floorVector s.params (s.frame.n / 2) f (s.frame.floorY.getD ch []) = .ok finalY used curve vec) →
        ∃ t, step s = .next t
          ∧ t = { s with
              noResidue := propagate m.steps s.noResidue
              floorUsed := t.floorUsed
              frame := { s.frame with
                floor := t.frame.floor, floorFinalY := t.frame.floorFinalY, floorInt := t.frame.floorInt }
              seq := m.residueSeq s.cfg.channels 0 }
          ∧ (∀ ch < s.cfg.channels, s.floorDone t ch) ∧ ∀ ch, s.cfg.channels ≤ ch → s.floorKept t ch)
      ∧ ∀ (ch : Nat) (f : FloorConfig) (finalY : List Int) (used : List Bool) (curve : List Int), ch < s.cfg.channels →
          (∀ k < ch, s.floorUnused.getD k false = true
            ∨ ∃ f finalY used curve vec, s.channelFloor k = some f
              ∧ floorVector s.params (s.frame.n / 2) f (s.frame.floorY.getD k []) = .ok finalY used curve vec) →
          s.floorUnused.getD ch false = false → s.channelFloor ch = some f →
          floorVector s.params (s.frame.n / 2) f (s.frame.floorY.getD ch []) = .amplitude finalY used curve →
          ∃ t, step s = .next t ∧ AbortedAs s t .floorAmplitude ch
            ∧ t = { s with
                floorUsed := t.floorUsed
                frame := { s.frame with
                  floor := t.frame.floor, floorFinalY := t.frame.floorFinalY, floorInt := t.frame.floorInt }
                phase := t.phase, err := t.err, view := t.view }
            ∧ t.floorUsed[ch]? = some (used ++ (s.floorUsed.getD ch []).drop used.length)
            ∧ (∀ k < ch, s.floorDone t k) ∧ ∀ k, ch < k → s.floorKept t k

/-! ### Residues (45_residue.md) -/

/-- A residue of each type: with every book in range, the new entry holds the assembled fields, each cascade value
`high*8 + low`, and in each row of books the read ones at the set bits of the cascade and none at the others; else E_RES_BOOK,
and no field after the failing one is read (45_residue.md R280 to R282, 60_exceptions.md R353). What the failing entry holds is log 7. -/
def Obligations.ResidueUnit : Prop :=
  ∀ (ty : ResType) (f : ResidueFields) (s : State), f.wf = true →
    (residueError s.nCodebooks f = none →
      ∃ t rows, exec (resInstr ty f) s = .next t
        ∧ t = { s with
            pktBitpos := t.pktBitpos, warn := t.warn
            residues := s.residues ++ [
              { type := ty
                begin := f.begin.toNat
                stop := f.stop.toNat
                psize := f.psizeM1.toNat + 1
                classifications := f.classificationsM1.toNat + 1
                classbook := f.classbook.toNat
                cascade := f.cascade.map (fun c => (c.high.map BitVec.toNat).getD 0 * 8 + c.low.toNat)
                books := rows }]
            seq := if s.residues.length + 1 < s.nResidues then .residue else .count .mapping }
        ∧ rows.length = f.cascade.length
        ∧ (∀ (k : Nat) (c : CascadeFields) (bs : List (BitVec 8)) (row : List (Option Nat)),
            f.cascade[k]? = some c → f.books[k]? = some bs → rows[k]? = some row →
            row.length = 8 ∧ row.filterMap id = bs.map BitVec.toNat
              ∧ ∀ p < 8, (row[p]? = some none ↔ (cascadeValue c).testBit p = false))
        ∧ (s.Inv → ReadBy s t (fieldWidths (.residue s.residues.length) (resInstr ty f))))
    ∧ (∀ c, residueError s.nCodebooks f = some c →
      ∃ t, exec (resInstr ty f) s = .next t ∧ AbortedAs s t c s.residues.length
        ∧ t = { s with
            pktBitpos := t.pktBitpos, warn := t.warn, phase := t.phase, err := t.err, view := t.view
            residues := t.residues }
        ∧ (∃ x, t.residues = s.residues ++ [x])
        ∧ (s.Inv →
            ReadBy s t
              (readUpTo (fieldWidths (.residue s.residues.length) (resInstr ty f)) (residueFieldsOk s.nCodebooks f))))

/-- The residue payload of each type. A submap of silent channels, or one without partitions, reads nothing and gives its
channels all-zero vectors (45_residue.md R284). Otherwise the passes run in the order of the rule, each group's digits at
`CLASSIF[k][pc ..]` and each partition with the book `R.books[CLASSIF[k][pc]][pass]` from `begin + pc * psize` on (R285, R286;
`residueRun`, `ResAct.run`), and their vectors are the channels' residues, de-interleaved for type 2, with zeros for a silent channel (R289, R290); for fit books
they always end without an error, and an error on the way is the abort, with the bits up to it read. No other channel's residue
changes (46_audio_packet.md R304). What CLASSIF holds afterwards is the model's (log 28), and so are the frame buffers after an
error (log 8). -/
def Obligations.ResiduePayloads : Prop :=
  ∀ (i : Instr) (s : State) (sm res : Nat) (m : MappingConfig) (rc : ResidueConfig) (chs : List Nat),
    (i = .res0Payload ∧ rc.type = .t0 ∨ i = .res1Payload ∧ rc.type = .t1 ∨ i = .res2Payload ∧ rc.type = .t2) →
    s.seq = .residuePayload sm → s.frameMapping = some m → s.submapResidue m sm = some (res, rc) →
    chs = m.submapChannels s.cfg.channels sm → s.cfg.channels ≤ s.frame.residue.length →
    ((residueParts rc (residueActual rc.type (s.frame.n / 2) chs.length) = 0
        ∨ ∀ ch ∈ chs, s.noResidue.getD ch false = true) →
      ∃ t, exec i s = .next t
        ∧ t = { s with
            pktBitpos := t.pktBitpos, warn := t.warn
            frame := { s.frame with residue := t.frame.residue, classif := t.frame.classif }
            seq := m.residueSeq s.cfg.channels (sm + 1) }
        ∧ (∀ ch ∈ chs, t.frame.residue[ch]? = some (List.replicate (s.frame.n / 2) F32.zero))
        ∧ (∀ ch, ch ∉ chs → t.frame.residue[ch]? = s.frame.residue[ch]?)
        ∧ (s.Inv → ReadBy s t []))
    ∧ (residueParts rc (residueActual rc.type (s.frame.n / 2) chs.length) ≠ 0 →
      (∃ ch ∈ chs, s.noResidue.getD ch false = false) →
      (residueReady s.codebooks rc → ∃ t w r, exec i s = .next t ∧ s.residueRun res rc chs = .ok w r)
      ∧ (∀ w r, s.residueRun res rc chs = .ok w r →
          ∃ t, exec i s = .next t
            ∧ t = { s with
                pktBitpos := r.pos
                warn := t.warn
                frame := { s.frame with residue := t.frame.residue, classif := t.frame.classif }
                seq := m.residueSeq s.cfg.channels (sm + 1) }
            ∧ (∀ k ch, chs[k]? = some ch → ∃ v, t.frame.residue[ch]? = some v ∧ v.length = s.frame.n / 2
                ∧ (s.noResidue.getD ch false = true → v = List.replicate (s.frame.n / 2) F32.zero)
                ∧ (s.noResidue.getD ch false = false → rc.type ≠ .t2 → w.out[k]? = some v)
                ∧ (s.noResidue.getD ch false = false → rc.type = .t2 →
                    ∀ j < s.frame.n / 2, v[j]? = (w.out.headD [])[j * chs.length + k]?))
            ∧ (∀ ch, ch ∉ chs → t.frame.residue[ch]? = s.frame.residue[ch]?)
            ∧ (s.Inv → t.warn = s.warn.warned r.exhausted))
      ∧ ∀ c k r, s.residueRun res rc chs = .bad c k r →
          ∃ t, exec i s = .next t ∧ AbortedAs s t c k
            ∧ t = { s with
                pktBitpos := r.pos, warn := t.warn, phase := t.phase, err := t.err, view := t.view }
            ∧ (s.Inv → t.warn = s.warn.warned r.exhausted))

/-- The digits of a classbook codeword (45_residue.md R285): as many as asked, each below the radix, most significant first, of
the value reduced by what passes the top digit; with the examples of 45_residue.md R291. -/
def Obligations.ClassificationDigits : Prop :=
  (∀ radix n temp : Nat, 1 ≤ radix →
    (classDigits radix n temp []).length = n
      ∧ (∀ d ∈ classDigits radix n temp [], d < radix)
      ∧ (classDigits radix n temp []).foldl (fun v d => v * radix + d) 0 = temp % radix ^ n)
  ∧ classDigits 3 3 5 [] = [0, 1, 2] ∧ classDigits 3 3 26 [] = [2, 2, 2] ∧ classDigits 4 2 7 [] = [1, 3]

/-- Adding a decoded vector into a vector under accumulation (45_residue.md R287, R288): value `k` is added at
`idx + k * step` and nothing else changes; when one of these places is at or past the end, the operation raises
E_RES_OVERRUN for the residue. A partition checks its book before it reads, then adds as many vectors as its rule says: for
type 0, value `t` of vector `j` of `psize / D` at `off + j + t * step` (R287); for the others, the vectors one after the other
from `off` on, until the partition is full (R288). It ends with the first vector that cannot be decoded, by that vector's error,
or that has a place past the end, by E_RES_OVERRUN after that vector's bits. -/
def Obligations.PartitionAdds : Prop :=
  (∀ (res step idx : Nat) (e v : List F32) (r : Reader), 1 ≤ step →
    ((∀ k < e.length, idx + k * step < v.length) →
      ∃ w, addVector res step e idx v r = .ok w r ∧ w.length = v.length
        ∧ (∀ k < e.length, w[idx + k * step]? =
            some (F32.add (v.getD (idx + k * step) F32.zero) (e.getD k F32.zero)))
        ∧ ∀ p, (∀ k < e.length, p ≠ idx + k * step) → w[p]? = v[p]?)
    ∧ ((∃ k < e.length, v.length ≤ idx + k * step) → addVector res step e idx v r = .bad .resOverrun res r))
  ∧ ∀ (ty : ResType) (books : List Codebook) (res k off psize : Nat) (b : Codebook) (v : List F32) (r : Reader),
      books[k]? = some b →
      (b.lookup = 0 → partition ty books res k off psize v r = .bad .cbNoVq k r)
      ∧ (b.lookup ≠ 0 → b.dims = 0 → partition ty books res k off psize v r = .bad .cbZeroDim k r)
      ∧ (b.lookup ≠ 0 → b.dims ≠ 0 → ∀ (es : List (List F32)) (r1 : Reader), VectorsRead books k r es r1 →
          (∀ j < es.length, ∀ t < b.dims, partitionPlace ty off psize b.dims j t < v.length) →
          (es.length = partitionVectors ty psize b.dims →
            ∃ w, partition ty books res k off psize v r = .ok w r1 ∧ w.length = v.length
              ∧ (∀ j < es.length, ∀ t < b.dims, w[partitionPlace ty off psize b.dims j t]? =
                  some (F32.add (v.getD (partitionPlace ty off psize b.dims j t) F32.zero) ((es.getD j []).getD t F32.zero)))
              ∧ ∀ p, (∀ j < es.length, ∀ t < b.dims, p ≠ partitionPlace ty off psize b.dims j t) → w[p]? = v[p]?)
          ∧ (es.length < partitionVectors ty psize b.dims →
            (∀ c i r2, vqDecode books k r1 = .bad c i r2 → partition ty books res k off psize v r = .bad c i r2)
            ∧ ∀ e r2, vqDecode books k r1 = .ok e r2 →
                (∃ t < b.dims, v.length ≤ partitionPlace ty off psize b.dims es.length t) →
                partition ty books res k off psize v r = .bad .resOverrun res r2))

/-! ### Mappings and modes (42_headers.md) -/

/-- A mapping: with no failing check the new entry holds the assembled fields; else the first failing check raises for it,
and no field after the checked one is read (42_headers.md R178 to R181, 60_exceptions.md R353). What the failing entry holds is log 7. -/
def Obligations.MappingUnit : Prop :=
  ∀ (f : MapFields) (s : State), f.wf s.cfg.channels = true →
    (mappingError s.cfg.channels s.nFloors s.nResidues f = none →
      ∃ t, exec (.map0 f) s = .next t
        ∧ t = { s with
            pktBitpos := t.pktBitpos, warn := t.warn
            mappings := s.mappings ++ [
              { submaps := submapCount f.submapsM1
                couplingSteps := (f.coupling.getD []).length
                mag := (f.coupling.getD []).map Prod.fst
                ang := (f.coupling.getD []).map Prod.snd
                mux := if 1 < submapCount f.submapsM1 then f.mux.map BitVec.toNat
                  else List.replicate s.cfg.channels 0
                subFloor := f.subs.map (fun sm => sm.floor.toNat)
                subResidue := f.subs.map (fun sm => sm.residue.toNat) }]
            seq := if s.mappings.length + 1 < s.nMappings then .mapping else .count .mode }
        ∧ (s.Inv → s.Unclamped →
            ReadBy s t (fieldWidths (.mapping s.mappings.length s.cfg.channels) (.map0 f))))
    ∧ (∀ c, mappingError s.cfg.channels s.nFloors s.nResidues f = some c →
      ∃ t, exec (.map0 f) s = .next t ∧ AbortedAs s t c s.mappings.length
        ∧ t = { s with
            pktBitpos := t.pktBitpos, warn := t.warn, phase := t.phase, err := t.err, view := t.view
            mappings := t.mappings }
        ∧ (∃ x, t.mappings = s.mappings ++ [x])
        ∧ (s.Inv → s.Unclamped →
            ReadBy s t
              (readUpTo (fieldWidths (.mapping s.mappings.length s.cfg.channels) (.map0 f))
                (mappingFieldsOk s.cfg.channels s.nFloors s.nResidues f))))

/-- A mode: the new entry, or E_MODE_MAPPING when its mapping is none; both after its four fields (42_headers.md R182). What the
failing entry holds is log 7. -/
def Obligations.ModeUnit : Prop :=
  ∀ (blockflag : Bool) (m : BitVec 8) (s : State),
    (m.toNat < s.nMappings →
      ∃ t, exec (.mode blockflag m) s = .next t
        ∧ t = { s with
            pktBitpos := t.pktBitpos, warn := t.warn
            modes := s.modes ++ [
              { blockflag := blockflag, windowtype := 0, transformtype := 0, mapping := m.toNat }]
            seq := if s.modes.length + 1 < s.nModes then .mode else .framing }
        ∧ (s.Inv → ReadBy s t [1, 16, 16, 8]))
    ∧ (s.nMappings ≤ m.toNat →
      ∃ t, exec (.mode blockflag m) s = .next t ∧ AbortedAs s t .modeMapping s.modes.length
        ∧ t = { s with
            pktBitpos := t.pktBitpos, warn := t.warn, phase := t.phase, err := t.err, view := t.view
            modes := t.modes }
        ∧ (∃ x, t.modes = s.modes ++ [x])
        ∧ (s.Inv → ReadBy s t [1, 16, 16, 8]))

/-! ### Audio packets (46_audio_packet.md) -/

/-- The head of an audio packet and the window flags of a long block: the mode, the block size and the flags of the frame are
set, and `NO_RESIDUE` and `FLOOR_UNUSED` of every channel are cleared; a mode number that is no mode raises E_AUDIO_MODE
(46_audio_packet.md R300, R301, 10_state.md R26). That the flags are cleared at this place, and so kept by an abort of the head, is
the model's (log 29); so is that the other frame buffers are gone and that the new frame has a row for every channel already, in
FLOOR_Y, RESIDUE and every buffer that the floor curves write (log 8). -/
def Obligations.AudioPacketHead : Prop :=
  (∀ (s : State) (k : Nat) (m : ModeConfig), k < s.nModes → s.modes[k]? = some m →
    ∃ t, exec (.audioPacket k) s = .next t
      ∧ t = { s with
          pktBitpos := t.pktBitpos, warn := t.warn
          noResidue := List.replicate s.cfg.channels false
          floorUnused := List.replicate s.cfg.channels false
          floorUsed := t.floorUsed
          frame := t.frame
          seq := if m.blockflag then .window else if 0 < s.cfg.channels then .floorPayload 0 else .curves }
      ∧ t.frame.mode = k ∧ t.frame.blockflag = m.blockflag
      ∧ t.frame.n = (if m.blockflag then s.cfg.bs1 else s.cfg.bs0)
      ∧ (m.blockflag = false → t.frame.prevwin = false ∧ t.frame.nextwin = false)
      ∧ (∀ ch k, (t.floorUsed.getD ch []).getD k false = (s.floorUsed.getD ch []).getD k false)
      ∧ t.floorRows s.cfg.channels ∧ s.cfg.channels ≤ t.frame.floorY.length ∧ s.cfg.channels ≤ t.frame.residue.length
      ∧ (s.Inv → s.Unclamped → ReadBy s t [1, ilog (s.nModes - 1)]))
  ∧ (∀ (s : State) (k : Nat), s.nModes ≤ k →
      ∃ t, exec (.audioPacket k) s = .next t ∧ AbortedAs s t .audioMode k
        ∧ t = { s with
            pktBitpos := t.pktBitpos, warn := t.warn, phase := t.phase, err := t.err, view := t.view }
        ∧ (s.Inv → s.Unclamped → ReadBy s t [1, ilog (s.nModes - 1)]))
  ∧ ∀ (s : State) (prev next : Bool), ∃ t, exec (.windowFlags prev next) s = .next t
      ∧ t = { s with
          pktBitpos := t.pktBitpos, warn := t.warn
          frame := { s.frame with n := s.cfg.bs1, prevwin := prev, nextwin := next }
          seq := if 0 < s.cfg.channels then .floorPayload 0 else .curves }
      ∧ (s.Inv → ReadBy s t [1, 1])

/-- Nonzero propagation (46_audio_packet.md R303): the steps run in order on the flags as the earlier ones left them; a pair in
which either channel has residue gives it to both; so no channel loses its residue. The step that ends the floors does this
with the coupling steps of the frame's mapping, and `FLOOR_UNUSED` is not changed. -/
def Obligations.Propagation : Prop :=
  (∀ (steps : List (Nat × Nat)) (flags : List Bool) (m a : Nat), m < flags.length → a < flags.length →
    (propagate steps flags).length = flags.length
    ∧ (∀ ch, (propagate steps flags).getD ch false = true → flags.getD ch false = true)
    ∧ ((propagate steps flags).getD m false = false ∨ (propagate steps flags).getD a false = false →
        (propagate (steps ++ [(m, a)]) flags).getD m false = false
        ∧ (propagate (steps ++ [(m, a)]) flags).getD a false = false
        ∧ ∀ ch, ch ≠ m → ch ≠ a →
            (propagate (steps ++ [(m, a)]) flags).getD ch false = (propagate steps flags).getD ch false)
    ∧ ((propagate steps flags).getD m false = true → (propagate steps flags).getD a false = true →
        propagate (steps ++ [(m, a)]) flags = propagate steps flags))
  ∧ (∀ flags : List Bool, propagate [] flags = flags)
  ∧ ∀ (s t : State) (m : MappingConfig), s.hostQ = [] → s.phase.busy = true → s.seq = .curves →
      s.frameMapping = some m → step s = .next t → t.phase ≠ .error →
      t.noResidue = propagate m.steps s.noResidue ∧ t.floorUnused = s.floorUnused

/-- Decoupling and spectrum: the coupling steps run in reverse order; each step computes the new magnitude and angle of every
sample from the old two, and changes no other channel; an unused channel's spectrum is `+0.0` and a used one's the product of
floor and residue (46_audio_packet.md R305 to R307). -/
def Obligations.DecouplingAndSpectrum : Prop :=
  (∀ (s : State) (m : MappingConfig), s.hostQ = [] → s.phase.busy = true → s.seq = .couple → s.frameMapping = some m →
    ∃ t, step s = .next t
      ∧ t = { s with
          frame := { s.frame with residue := decoupleAll m.steps s.frame.residue, spectrum := t.frame.spectrum }
          seq := .synth }
      ∧ t.frame.spectrum.length = s.cfg.channels
      ∧ ∀ ch < s.cfg.channels, ∀ i < s.frame.n / 2,
          (s.floorUnused.getD ch false = true → (t.frame.spectrum.getD ch [])[i]? = some F32.zero)
          ∧ (s.floorUnused.getD ch false = false → ∀ x y, (s.frame.floor.getD ch [])[i]? = some x →
              (t.frame.residue.getD ch [])[i]? = some y →
              (t.frame.spectrum.getD ch [])[i]? = some (F32.mul x y)))
  ∧ (∀ (steps : List (Nat × Nat)) (st : Nat × Nat) (rows : List (List F32)),
      decoupleAll (steps ++ [st]) rows = decoupleAll steps (decoupleStep rows st)
      ∧ decoupleAll [] rows = rows)
  ∧ (∀ (m a : Nat) (rows : List (List F32)), m < rows.length → a < rows.length → m ≠ a →
      (∀ ch, ch ≠ m → ch ≠ a → (decoupleStep rows (m, a))[ch]? = rows[ch]?)
      ∧ ∀ (i : Nat) (x y : F32), (rows.getD m [])[i]? = some x → (rows.getD a [])[i]? = some y →
          ((decoupleStep rows (m, a)).getD m [])[i]? = some (decouple x y).1
          ∧ ((decoupleStep rows (m, a)).getD a [])[i]? = some (decouple x y).2)
  ∧ ∀ x y : F32,
      (x.gtZero = true → y.gtZero = true → decouple x y = (x, F32.sub x y))
      ∧ (x.gtZero = true → y.gtZero = false → decouple x y = (F32.add x y, x))
      ∧ (x.gtZero = false → y.gtZero = true → decouple x y = (x, F32.add x y))
      ∧ (x.gtZero = false → y.gtZero = false → decouple x y = (F32.sub x y, x))

/-! ### Synthesis (47_synthesis.md) -/

/-- The synthesis of a frame: the block of a channel is its transformed spectrum times the window, sample by sample
(47_synthesis.md R321, R324); the output has `L` sample frames of every channel, interleaved; each is the overlap of the carry
and the windowed block, the quarter points aligned; the first packet gives zeros; the right half of the block is the new carry
and its size the new `PREV_N` (R325 to R330). The window's bounds are those of R322; its five parts are 0, the rising slope, 1,
the falling slope and 0, the flat parts exact (R323), and the flat part leaves a sample unchanged. The transform and the slopes
are OPEN parameters: the statement holds for any of them, and an all-zero spectrum gives zeros (R321), of positive sign in this
model (log 26). -/
def Obligations.SynthesisStep : Prop :=
  (∀ s : State, s.hostQ = [] → s.phase.busy = true → s.seq = .synth → s.frame.spectrum.length = s.cfg.channels →
    ∃ t, step s = .next t
      ∧ t = { s with frame := t.frame, carry := t.carry, prevN := s.frame.n, seq := .emit 0 }
      ∧ t.frame.outLen =
          (if s.prevN = 0 then (if s.params.firstPacket = .zeroQuarter then s.frame.n / 4 else 0)
            else s.prevN / 4 + s.frame.n / 4)
      ∧ t.frame.outbuf.length = s.cfg.channels * t.frame.outLen
      ∧ t.frame.time = s.frame.spectrum.map (fun x => List.zipWith F32.mul (imdct s.params.imdct x s.frame.n)
          (windowOf s.params.window
            (windowBounds s.frame.n s.cfg.bs0 s.frame.blockflag s.frame.prevwin s.frame.nextwin) s.frame.n))
      ∧ (∀ ch < s.cfg.channels, (t.frame.time.getD ch []).length = s.frame.n
          ∧ ∀ k < s.frame.n / 2,
              (t.carry.getD ch []).getD k F32.zero = (t.frame.time.getD ch []).getD (s.frame.n / 2 + k) F32.zero)
      ∧ ∀ ch < s.cfg.channels, ∀ j < t.frame.outLen,
          t.frame.outbuf[j * s.cfg.channels + ch]? = some (pcm16 ((t.frame.outf.getD ch []).getD j F32.zero))
          ∧ (s.prevN = 0 → (t.frame.outf.getD ch []).getD j F32.zero = F32.zero)
          ∧ (s.prevN ≠ 0 →
              (j < s.prevN / 2 → (s.prevN / 4 ≤ s.frame.n / 4 + j ∧ s.frame.n / 4 + j < s.frame.n / 2 + s.prevN / 4) →
                (t.frame.outf.getD ch []).getD j F32.zero
                  = F32.add ((s.carry.getD ch []).getD j F32.zero)
                      ((t.frame.time.getD ch []).getD (s.frame.n / 4 + j - s.prevN / 4) F32.zero))
              ∧ (j < s.prevN / 2 →
                ¬(s.prevN / 4 ≤ s.frame.n / 4 + j ∧ s.frame.n / 4 + j < s.frame.n / 2 + s.prevN / 4) →
                (t.frame.outf.getD ch []).getD j F32.zero = (s.carry.getD ch []).getD j F32.zero)
              ∧ (s.prevN / 2 ≤ j →
                (s.prevN / 4 ≤ s.frame.n / 4 + j ∧ s.frame.n / 4 + j < s.frame.n / 2 + s.prevN / 4) →
                (t.frame.outf.getD ch []).getD j F32.zero
                  = (t.frame.time.getD ch []).getD (s.frame.n / 4 + j - s.prevN / 4) F32.zero)))
  ∧ (∀ (n b0 : Nat) (blockflag prev next : Bool), 4 ∣ n → 4 ∣ b0 → b0 ≤ n → ∃ b, windowBounds n b0 blockflag prev next = b
      ∧ (blockflag = true → prev = false → b.ls = n / 4 - b0 / 4 ∧ b.le = n / 4 + b0 / 4 ∧ b.ln = b0 / 2)
      ∧ (blockflag = false ∨ prev = true → b.ls = 0 ∧ b.le = n / 2 ∧ b.ln = n / 2)
      ∧ (blockflag = true → next = false → b.rs = 3 * n / 4 - b0 / 4 ∧ b.re = 3 * n / 4 + b0 / 4 ∧ b.rn = b0 / 2)
      ∧ (blockflag = false ∨ next = true → b.rs = n / 2 ∧ b.re = n ∧ b.rn = n / 2)
      ∧ b.ls ≤ b.le ∧ b.le ≤ b.rs ∧ b.rs ≤ b.re ∧ b.re ≤ n ∧ b.le - b.ls = b.ln ∧ b.re - b.rs = b.rn)
  ∧ (∀ (w : Impl) (b : WindowBounds) (n : Nat), b.ls ≤ b.le → b.le ≤ b.rs → b.rs ≤ b.re →
      (windowOf w b n).length = n
      ∧ ∀ i < n,
          (i < b.ls → (windowOf w b n)[i]? = some F32.zero)
          ∧ (b.ls ≤ i → i < b.le → (windowOf w b n)[i]? = some (windowSlope w b.ln (i - b.ls)))
          ∧ (b.le ≤ i → i < b.rs → (windowOf w b n)[i]? = some F32.one)
          ∧ (b.rs ≤ i → i < b.re → (windowOf w b n)[i]? = some (windowSlope w b.rn (b.re - 1 - i)))
          ∧ (b.re ≤ i → (windowOf w b n)[i]? = some F32.zero))
  ∧ (∀ x : F32, (x.canonical = true → F32.mul x F32.one = x)
      ∧ (x.isFinite = true → (F32.mul x F32.zero).isZero = true))
  ∧ ∀ (w : Impl) (spectrum : List F32) (n : Nat), (∀ x ∈ spectrum, x.isZero = true) →
      imdct w spectrum n = List.replicate n F32.zero

/-- Emission: a sink that takes every sample gets the rest of `OUTBUF` in order, the frame counter grows by `L`, and the packet is
complete; a sink that takes fewer gets as many, and the core goes on waiting from there (47_synthesis.md R330, R331,
46_audio_packet.md R308, 10_state.md R39). Several samples in one step are the model's (log 27). -/
def Obligations.Emission : Prop :=
  ∀ (s : State) (k : Nat), s.hostQ = [] → s.phase.busy = true → s.seq = .emit k →
    ((∀ n, s.sinkRoom = some n → (s.frame.outbuf.drop k).length ≤ n) → s.packetNo + 1 < 2 ^ 32 →
      ∃ t, step s = .next t
        ∧ t = { s with
            out := s.out ++ s.frame.outbuf.drop k
            sinkRoom := s.sinkRoom.map (fun n => n - (s.frame.outbuf.drop k).length)
            cnt := { s.cnt with
              framesOut := min (s.cnt.framesOut + s.frame.outLen) (2 ^ 64 - 1)
              packetsDone := min (s.cnt.packetsDone + 1) (2 ^ 32 - 1) }
            packetNo := s.packetNo + 1
            frame := t.frame
            seq := .boundary
            view := t.view }
        ∧ t.view = t.mirror)
    ∧ (∀ n, s.sinkRoom = some n → n < (s.frame.outbuf.drop k).length →
      step s = .next { s with
        out := s.out ++ (s.frame.outbuf.drop k).take n, sinkRoom := some 0, seq := .emit (k + n) })

/-- `pcm16` (47_synthesis.md R329), for a finite value `N * 2^-149`: the integer nearest to 32768 times the value, the even one
of two, limited to -32768..32767; infinities saturate and a NaN gives 0. -/
def Obligations.Pcm16 : Prop :=
  pcm16 .nan = 0 ∧ (pcm16 (.inf false)).toInt = 32767 ∧ (pcm16 (.inf true)).toInt = -32768
    ∧ ∀ (neg : Bool) (m e : Nat),
      (32767 * 2 ^ 134 ≤ F32.scaled neg m e → (pcm16 (.fin neg m e)).toInt = 32767)
      ∧ (F32.scaled neg m e ≤ -32768 * 2 ^ 134 → (pcm16 (.fin neg m e)).toInt = -32768)
      ∧ (-32768 * 2 ^ 134 ≤ F32.scaled neg m e → F32.scaled neg m e ≤ 32767 * 2 ^ 134 →
          (2 * F32.scaled neg m e - (pcm16 (.fin neg m e)).toInt * 2 ^ 135).natAbs ≤ 2 ^ 134
          ∧ ((2 * F32.scaled neg m e - (pcm16 (.fin neg m e)).toInt * 2 ^ 135).natAbs = 2 ^ 134 →
              (pcm16 (.fin neg m e)).toInt % 2 = 0))

/-! ### The host (10_state.md R40 to R53) -/

/-- A host write whose turn it is: `SRESET` resets every piece of the core's state and takes priority over `START`, which acts in
`IDLE` only; a write at any other register is ignored (10_state.md R40, R41, 70_reset_and_hazards.md R380, R381). The model's own
are: that an aligned write BELOW the base address is ignored like one at another register, and the stop at a misaligned address,
to which 20_memory.md R63 gives no step (log 15); when a write has its turn (log 23); and that a reset during a wait on the source
drops the bytes answered for the abandoned step (70_reset_and_hazards.md R383, log 5). -/
def Obligations.HostControl : Prop :=
  ∀ (s : State) (w : HostWrite) (rest : List HostWrite), s.hostQ = w :: rest → s.hostTurn = true →
    (w.addr % 4 = 0 → w.addr = s.params.regsBase → w.value.getLsbD 1 = true →
      ∃ t, step s = .next t
        ∧ t = { State.reset with
            params := s.params, src := t.src, hostQ := rest, sinkRoom := s.sinkRoom, out := s.out }
        ∧ t.src = if s.waitsOnSource then srcAfter s.src else s.src)
    ∧ (w.addr % 4 = 0 → w.addr = s.params.regsBase → w.value.getLsbD 1 = false → w.value.getLsbD 0 = true →
      s.phase = .idle →
      ∃ t, step s = .next t ∧ t = { s with hostQ := rest, phase := .hdrId, seq := .boundary, view := t.view }
        ∧ t.view = t.mirror)
    ∧ (w.addr % 4 = 0 → w.addr = s.params.regsBase → w.value.getLsbD 1 = false →
      (w.value.getLsbD 0 = false ∨ s.phase ≠ .idle) → step s = .next { s with hostQ := rest })
    ∧ (w.addr % 4 = 0 → w.addr ≠ s.params.regsBase → step s = .next { s with hostQ := rest })
    ∧ (w.addr % 4 ≠ 0 → step s = .refused .hostAccess)

/-- Host reads between two core steps: `CTRL` reads 0; the fields of `STATUS`; and each other register the state it mirrors
(10_state.md R40 to R51). -/
def Obligations.HostReads : Prop :=
  ∀ s : State, s.Inv → (s.phase.busy = false ∨ s.seq = .boundary) → s.params.regsBase % 4 = 0 →
    hostRead s s.params.regsBase = some 0
    ∧ (∃ w, hostRead s (s.params.regsBase + 0x04) = some w
        ∧ w.toNat % 8 = s.phase.number ∧ w.getLsbD 3 = false ∧ w.getLsbD 4 = s.phase.busy
        ∧ w.getLsbD 5 = decide (s.phase = .error) ∧ w.getLsbD 6 = decide (s.phase = .done)
        ∧ w.getLsbD 7 = s.warn.any ∧ w.toNat / 2 ^ 8 = s.err.cls.number)
    ∧ hostRead s (s.params.regsBase + 0x08) = some (s.err.code.zeroExtend 32)
    ∧ hostRead s (s.params.regsBase + 0x0C) = some s.err.index
    ∧ hostRead s (s.params.regsBase + 0x10) = some s.err.packet
    ∧ hostRead s (s.params.regsBase + 0x14) = some s.err.page
    ∧ (∃ w, hostRead s (s.params.regsBase + 0x18) = some w ∧ w.toNat = s.warn.exhausted)
    ∧ (∃ w, hostRead s (s.params.regsBase + 0x1C) = some w ∧ w.toNat = s.warn.clamp)
    ∧ hostRead s (s.params.regsBase + 0x24) = some s.cfg.rate
    ∧ hostRead s (s.params.regsBase + 0x28) = some (BitVec.ofInt 32 s.cfg.brMax)
    ∧ hostRead s (s.params.regsBase + 0x2C) = some (BitVec.ofInt 32 s.cfg.brNom)
    ∧ hostRead s (s.params.regsBase + 0x30) = some (BitVec.ofInt 32 s.cfg.brMin)
    ∧ (∃ w, hostRead s (s.params.regsBase + 0x38) = some w ∧ w.toNat = s.cnt.pagesAccepted)
    ∧ (∃ w, hostRead s (s.params.regsBase + 0x3C) = some w ∧ w.toNat = s.packetNo)
    ∧ (∃ lo hi, hostRead s (s.params.regsBase + 0x40) = some lo ∧ hostRead s (s.params.regsBase + 0x44) = some hi
        ∧ lo.toNat + 2 ^ 32 * hi.toNat = s.cnt.framesOut)
    ∧ (∃ lo hi, hostRead s (s.params.regsBase + 0x48) = some lo ∧ hostRead s (s.params.regsBase + 0x4C) = some hi
        ∧ lo.toNat + 2 ^ 32 * hi.toNat = s.cnt.lastGranule.toNat)
    ∧ hostRead s (s.params.regsBase + 0x50) = some s.cnt.lastSerial
    ∧ hostRead s (s.params.regsBase + 0x54) = some s.cnt.lastSequence
    ∧ hostRead s (s.params.regsBase + 0x58) = some s.cfg.vendorLen
    ∧ hostRead s (s.params.regsBase + 0x5C) = some s.cfg.commentCount
    ∧ (s.Unclamped → ∃ w, hostRead s (s.params.regsBase + 0x20) = some w ∧ w.toNat = s.cfg.channels)
    ∧ (s.cfg.e0 < 16 → s.cfg.e1 < 16 → ∃ w, hostRead s (s.params.regsBase + 0x34) = some w
        ∧ w.toNat = s.cfg.e0 + 16 * s.cfg.e1)
    ∧ ∀ k, 0x17 < k → hostRead s (s.params.regsBase + 4 * k) = some 0

/-! ### The whole machine -/

/-- The invariant holds at reset, and so does the one that no read is clamped (70_reset_and_hazards.md R381). -/
def Obligations.InvReset : Prop := State.reset.Inv ∧ State.reset.Unclamped

/-- The invariant of Safety.lean is kept by every step, from every state that meets it: the error record, the cursor and the
widths of the counters, the packet's bound, what the host sees, the page and its cursors, and the carry before the first audio
packet. -/
def Obligations.InvStep : Prop := ∀ s t : State, s.Inv → step s = .next t → t.Inv

/-- No read of a stream is clamped: the widths that could pass 32 bits are bounded by the configuration, and every step keeps
that and `WARN_CLAMP = 0` (41_bitreader.md R152). -/
def Obligations.NoReadClamped : Prop := ∀ s t : State, s.Inv → s.Unclamped → step s = .next t → t.Unclamped

/-- `PHASE` advances as 10_state.md R21 lists and in no other way: to `IDLE` by a host write with `SRESET` alone, from `IDLE` by
one with `START` alone (10_state.md R41); in particular `DONE` and `ERROR` are final until reset. -/
def Obligations.PhaseMoves : Prop :=
  ∀ s t : State, s.Inv → step s = .next t →
    t.phase = s.phase ∨ t.phase = .idle ∧ s.resetArrived
      ∨ s.phase = .idle ∧ t.phase = .hdrId ∧ s.startArrived
      ∨ (s.phase, t.phase) ∈ [(Phase.hdrId, Phase.hdrComment), (.hdrComment, .hdrSetup), (.hdrSetup, .audio),
          (.audio, .done), (.hdrId, .error), (.hdrComment, .error), (.hdrSetup, .error), (.audio, .error)]

/-- The configuration is read-only from `AUDIO` on: no step from `AUDIO`, `DONE` or `ERROR` changes it, but for a host write
with `SRESET` (10_state.md R33, 70_reset_and_hazards.md R388). -/
def Obligations.ConfigurationReadOnly : Prop :=
  ∀ s t : State, s.Inv → step s = .next t → s.phase = .audio ∨ s.phase = .done ∨ s.phase = .error →
    t.phase = .idle ∧ s.resetArrived ∨ SameConfig s t

/-- Every abort, of whatever instruction or act: the error record names the packet and the pages as they stand; the output, the
carry, the counters, the cursor of the stream's packets and the identification configuration are left alone; and none comes
once a packet's synthesis has begun (60_exceptions.md R351, 46_audio_packet.md R308). -/
def Obligations.AbortKeeps : Prop :=
  ∀ s t : State, s.Inv → step s = .next t → s.phase ≠ .error → t.phase = .error →
    (∃ c, t.err.isOf c) ∧ t.err.packet = BitVec.ofNat 32 s.packetNo
      ∧ t.err.page = BitVec.ofNat 32 s.cnt.pagesAccepted
      ∧ t.out = s.out ∧ t.sinkRoom = s.sinkRoom ∧ t.carry = s.carry ∧ t.prevN = s.prevN ∧ t.cnt = s.cnt
      ∧ t.packetNo = s.packetNo ∧ t.pageValid = s.pageValid ∧ t.cfg = s.cfg ∧ t.pkt = s.pkt
      ∧ s.seq ≠ .synth ∧ ∀ k, s.seq ≠ .emit k

/-- What moves one way only: samples are appended to the output and only by emission, the stream position only grows until
reset, and a host sees the registers change only at the end of a core step, at `START` or at reset (10_state.md R23, R39, R52,
70_reset_and_hazards.md R380). -/
def Obligations.StreamMovesForward : Prop :=
  ∀ s t : State, s.Inv → step s = .next t →
    s.out <+: t.out
    ∧ ((∀ k, s.seq ≠ .emit k) → t.out = s.out)
    ∧ (s.srcPos ≤ t.srcPos ∨ t.phase = .idle ∧ t.srcPos = 0 ∧ s.resetArrived)
    ∧ (t.view = s.view ∨ t.view = t.mirror ∧ (t.seq = .boundary ∨ t.phase.busy = false))
    ∧ t.params = s.params

/-- The bits an instruction takes, and its warnings: of every unit that is fields only, the widths of its fields add up to the
length of its encoding in its context; the cursor moves by them, or to the packet's end; and each field that the packet does not
hold in full is one exhaustion warning, which sets `WARN_ANY` and adds one to the saturating `WARN_EXHAUSTED`, and nothing else is
warned of (30_encoding.md R82 to R95, 41_bitreader.md R151, R154, 60_exceptions.md R354). -/
def Obligations.UnitLength : Prop :=
  ∀ (s t : State) (c : Ctx) (i : Instr), s.Inv → s.Unclamped → s.phase.busy = true → s.ctx = some c → i.wf c = true →
    fieldsOnly i = true → exec i s = .next t → t.phase ≠ .error →
    ReadBy s t (fieldWidths c i) ∧ total (fieldWidths c i) = (encode c i).length
end

