-- ==== Sys2Proof/Laws/Codec.lean ====
section
/-! SUPPORT. Reading back a field that was written (20_memory.md R61, R64): one lemma per field form. -/

namespace Sys2Proof

/-! ### Lengths -/

@[simp] theorem bitsOf_length (n : Nat) : ∀ v : Nat, (bitsOf n v).length = n := by
  induction n with
  | zero => exact fun _ => rfl
  | succ n ih => exact fun v => by simp [bitsOf, ih]

@[simp] theorem encBv_length {n : Nat} (v : BitVec n) : (encBv v).length = n := bitsOf_length n _

@[simp] theorem leBytes_length (n : Nat) : ∀ v : Nat, (leBytes n v).length = n := by
  induction n with
  | zero => exact fun _ => rfl
  | succ n ih => exact fun v => by simp [leBytes, ih]

@[simp] theorem bitsOfBytes_nil : bitsOfBytes [] = [] := rfl

@[simp] theorem bitsOfBytes_cons (b : Byte) (bs : List Byte) :
    bitsOfBytes (b :: bs) = bitsOf 8 b.toNat ++ bitsOfBytes bs := rfl

@[simp] theorem bitsOfBytes_append (a b : List Byte) : bitsOfBytes (a ++ b) = bitsOfBytes a ++ bitsOfBytes b :=
  List.flatMap_append

@[simp] theorem bitsOfBytes_length (bs : List Byte) : (bitsOfBytes bs).length = 8 * bs.length := by
  induction bs with
  | nil => rfl
  | cons b bs ih =>
    simp [ih]
    omega

/-! ### One field -/

theorem takeNat_bitsOf (n : Nat) :
    ∀ (v : Nat) (rest : List Bool), takeNat n (bitsOf n v ++ rest) = (v % 2 ^ n, rest) := by
  induction n with
  | zero => intro v rest; simp [bitsOf, takeNat, Nat.mod_one]
  | succ n ih =>
    intro v rest
    simp only [bitsOf, List.cons_append, takeNat, ih]
    have h : (v % 2 == 1).toNat = v % 2 := by
      rcases Nat.mod_two_eq_zero_or_one v with h | h <;> simp [h]
    rw [h, Nat.pow_succ', Nat.mod_mul]

/-- A number of the field's width is read back. -/
theorem takeNat_of_lt {n v : Nat} (h : v < 2 ^ n) (rest : List Bool) : takeNat n (bitsOf n v ++ rest) = (v, rest) := by
  rw [takeNat_bitsOf, Nat.mod_eq_of_lt h]

@[simp] theorem takeBv_encBv {n : Nat} (v : BitVec n) (rest : List Bool) : takeBv n (encBv v ++ rest) = (v, rest) := by
  simp only [takeBv, encBv, takeNat_of_lt v.isLt]
  simp

@[simp] theorem takeBv_bitsOf {n : Nat} (v : BitVec n) (rest : List Bool) :
    takeBv n (bitsOf n v.toNat ++ rest) = (v, rest) := takeBv_encBv v rest

@[simp] theorem takeBit_cons (b : Bool) (rest : List Bool) : takeBit (b :: rest) = (b, rest) := rfl

@[simp] theorem takeOption_encOption {n : Nat} (v : Option (BitVec n)) (rest : List Bool) :
    takeOption n (encOption n v ++ rest) = (v, rest) := by
  cases v with
  | none => rfl
  | some v =>
    have h := takeBv_encBv v rest
    simp only [encBv] at h
    simp [takeOption, encOption, h]

/-! ### Repeated fields -/

theorem takeBvs_flatMap {n : Nat} (l : List (BitVec n)) (rest : List Bool) :
    takeBvs n l.length (l.flatMap encBv ++ rest) = (l, rest) := by
  induction l with
  | nil => rfl
  | cons v l ih =>
    simp only [List.length_cons, List.flatMap_cons, List.append_assoc, takeBvs, takeBv_encBv, ih]

theorem takeNats_flatMap {n : Nat} (l : List Nat) (h : ∀ v ∈ l, v < 2 ^ n) (rest : List Bool) :
    takeNats n l.length (l.flatMap (bitsOf n) ++ rest) = (l, rest) := by
  induction l with
  | nil => rfl
  | cons v l ih =>
    have hv := takeNat_of_lt (h v (by simp)) (l.flatMap (bitsOf n) ++ rest)
    simp only [List.length_cons, List.flatMap_cons, List.append_assoc, takeNats, hv,
      ih (fun x hx => h x (by simp [hx]))]

theorem takeOptions_flatMap {n : Nat} (l : List (Option (BitVec n))) (rest : List Bool) :
    takeOptions n l.length (l.flatMap (encOption n) ++ rest) = (l, rest) := by
  induction l with
  | nil => rfl
  | cons v l ih =>
    simp only [List.length_cons, List.flatMap_cons, List.append_assoc, takeOptions, takeOption_encOption, ih]

/-! ### Bytes -/

theorem takeBytes_bitsOfBytes (bs : List Byte) (rest : List Bool) :
    takeBytes bs.length (bitsOfBytes bs ++ rest) = (bs, rest) := by
  induction bs with
  | nil => cases rest <;> rfl
  | cons b bs ih =>
    have h := takeBv_bitsOf b (bitsOfBytes bs ++ rest)
    simp only [List.length_cons, bitsOfBytes_cons, List.append_assoc]
    simp only [bitsOf, List.cons_append] at h ⊢
    simp only [takeBytes, h, ih]

theorem bytesOfBits_bitsOfBytes (bs : List Byte) (rest : List Bool) :
    bytesOfBits bs.length (bitsOfBytes bs ++ rest) = bs := by
  induction bs with
  | nil => rfl
  | cons b bs ih =>
    have h := takeBv_bitsOf b (bitsOfBytes bs ++ rest)
    simp only [List.length_cons, bitsOfBytes_cons, List.append_assoc, bytesOfBits, h, ih]

theorem leNat_leBytes (n : Nat) : ∀ v : Nat, v < 256 ^ n → leNat (leBytes n v) = v := by
  induction n with
  | zero =>
    intro v h
    have : v = 0 := by simpa using h
    simp [leBytes, leNat, this]
  | succ n ih =>
    intro v h
    have h2 : v / 256 < 256 ^ n := by
      rw [Nat.div_lt_iff_lt_mul (by decide)]
      rwa [Nat.pow_succ] at h
    simp only [leBytes, leNat, ih _ h2, BitVec.toNat_ofNat]
    omega

end Sys2Proof
end

