-- ==== Sys2Proof/Laws/State.lean ====
section
/-! SUPPORT. One lemma per field per update of State: what the update writes, and that every other field stays. -/

namespace Sys2Proof.Machine

open Sys2Proof

@[simp] theorem State.withReader_params (s : State) (r : Reader) :
    (s.withReader r).params = s.params := rfl

@[simp] theorem State.withReader_phase (s : State) (r : Reader) :
    (s.withReader r).phase = s.phase := rfl

@[simp] theorem State.withReader_seq (s : State) (r : Reader) :
    (s.withReader r).seq = s.seq := rfl

@[simp] theorem State.withReader_srcPos (s : State) (r : Reader) :
    (s.withReader r).srcPos = s.srcPos := rfl

@[simp] theorem State.withReader_pageValid (s : State) (r : Reader) :
    (s.withReader r).pageValid = s.pageValid := rfl

@[simp] theorem State.withReader_segCursor (s : State) (r : Reader) :
    (s.withReader r).segCursor = s.segCursor := rfl

@[simp] theorem State.withReader_payCursor (s : State) (r : Reader) :
    (s.withReader r).payCursor = s.payCursor := rfl

@[simp] theorem State.withReader_pktBitpos (s : State) (r : Reader) :
    (s.withReader r).pktBitpos = r.pos := rfl

@[simp] theorem State.withReader_packetNo (s : State) (r : Reader) :
    (s.withReader r).packetNo = s.packetNo := rfl

@[simp] theorem State.withReader_pg (s : State) (r : Reader) :
    (s.withReader r).pg = s.pg := rfl

@[simp] theorem State.withReader_pkt (s : State) (r : Reader) :
    (s.withReader r).pkt = s.pkt := rfl

@[simp] theorem State.withReader_pktContinuing (s : State) (r : Reader) :
    (s.withReader r).pktContinuing = s.pktContinuing := rfl

@[simp] theorem State.withReader_noResidue (s : State) (r : Reader) :
    (s.withReader r).noResidue = s.noResidue := rfl

@[simp] theorem State.withReader_floorUnused (s : State) (r : Reader) :
    (s.withReader r).floorUnused = s.floorUnused := rfl

@[simp] theorem State.withReader_floorUsed (s : State) (r : Reader) :
    (s.withReader r).floorUsed = s.floorUsed := rfl

@[simp] theorem State.withReader_cfg (s : State) (r : Reader) :
    (s.withReader r).cfg = s.cfg := rfl

@[simp] theorem State.withReader_nCodebooks (s : State) (r : Reader) :
    (s.withReader r).nCodebooks = s.nCodebooks := rfl

@[simp] theorem State.withReader_nFloors (s : State) (r : Reader) :
    (s.withReader r).nFloors = s.nFloors := rfl

@[simp] theorem State.withReader_nResidues (s : State) (r : Reader) :
    (s.withReader r).nResidues = s.nResidues := rfl

@[simp] theorem State.withReader_nMappings (s : State) (r : Reader) :
    (s.withReader r).nMappings = s.nMappings := rfl

@[simp] theorem State.withReader_nModes (s : State) (r : Reader) :
    (s.withReader r).nModes = s.nModes := rfl

@[simp] theorem State.withReader_codebooks (s : State) (r : Reader) :
    (s.withReader r).codebooks = s.codebooks := rfl

@[simp] theorem State.withReader_floors (s : State) (r : Reader) :
    (s.withReader r).floors = s.floors := rfl

@[simp] theorem State.withReader_residues (s : State) (r : Reader) :
    (s.withReader r).residues = s.residues := rfl

@[simp] theorem State.withReader_mappings (s : State) (r : Reader) :
    (s.withReader r).mappings = s.mappings := rfl

@[simp] theorem State.withReader_modes (s : State) (r : Reader) :
    (s.withReader r).modes = s.modes := rfl

@[simp] theorem State.withReader_frame (s : State) (r : Reader) :
    (s.withReader r).frame = s.frame := rfl

@[simp] theorem State.withReader_carry (s : State) (r : Reader) :
    (s.withReader r).carry = s.carry := rfl

@[simp] theorem State.withReader_prevN (s : State) (r : Reader) :
    (s.withReader r).prevN = s.prevN := rfl

@[simp] theorem State.withReader_err (s : State) (r : Reader) :
    (s.withReader r).err = s.err := rfl

@[simp] theorem State.withReader_warn (s : State) (r : Reader) :
    (s.withReader r).warn = s.warn.add r.exhausted r.clamped := rfl

@[simp] theorem State.withReader_cnt (s : State) (r : Reader) :
    (s.withReader r).cnt = s.cnt := rfl

@[simp] theorem State.withReader_view (s : State) (r : Reader) :
    (s.withReader r).view = s.view := rfl

@[simp] theorem State.withReader_src (s : State) (r : Reader) :
    (s.withReader r).src = s.src := rfl

@[simp] theorem State.withReader_hostQ (s : State) (r : Reader) :
    (s.withReader r).hostQ = s.hostQ := rfl

@[simp] theorem State.withReader_sinkRoom (s : State) (r : Reader) :
    (s.withReader r).sinkRoom = s.sinkRoom := rfl

@[simp] theorem State.withReader_out (s : State) (r : Reader) :
    (s.withReader r).out = s.out := rfl

@[simp] theorem State.skips_params (s : State) (ws : List Nat) :
    (s.skips ws).params = s.params := rfl

@[simp] theorem State.skips_phase (s : State) (ws : List Nat) :
    (s.skips ws).phase = s.phase := rfl

@[simp] theorem State.skips_seq (s : State) (ws : List Nat) :
    (s.skips ws).seq = s.seq := rfl

@[simp] theorem State.skips_srcPos (s : State) (ws : List Nat) :
    (s.skips ws).srcPos = s.srcPos := rfl

@[simp] theorem State.skips_pageValid (s : State) (ws : List Nat) :
    (s.skips ws).pageValid = s.pageValid := rfl

@[simp] theorem State.skips_segCursor (s : State) (ws : List Nat) :
    (s.skips ws).segCursor = s.segCursor := rfl

@[simp] theorem State.skips_payCursor (s : State) (ws : List Nat) :
    (s.skips ws).payCursor = s.payCursor := rfl

@[simp] theorem State.skips_pktBitpos (s : State) (ws : List Nat) :
    (s.skips ws).pktBitpos = (s.reader.skips ws).pos := rfl

@[simp] theorem State.skips_packetNo (s : State) (ws : List Nat) :
    (s.skips ws).packetNo = s.packetNo := rfl

@[simp] theorem State.skips_pg (s : State) (ws : List Nat) :
    (s.skips ws).pg = s.pg := rfl

@[simp] theorem State.skips_pkt (s : State) (ws : List Nat) :
    (s.skips ws).pkt = s.pkt := rfl

@[simp] theorem State.skips_pktContinuing (s : State) (ws : List Nat) :
    (s.skips ws).pktContinuing = s.pktContinuing := rfl

@[simp] theorem State.skips_noResidue (s : State) (ws : List Nat) :
    (s.skips ws).noResidue = s.noResidue := rfl

@[simp] theorem State.skips_floorUnused (s : State) (ws : List Nat) :
    (s.skips ws).floorUnused = s.floorUnused := rfl

@[simp] theorem State.skips_floorUsed (s : State) (ws : List Nat) :
    (s.skips ws).floorUsed = s.floorUsed := rfl

@[simp] theorem State.skips_cfg (s : State) (ws : List Nat) :
    (s.skips ws).cfg = s.cfg := rfl

@[simp] theorem State.skips_nCodebooks (s : State) (ws : List Nat) :
    (s.skips ws).nCodebooks = s.nCodebooks := rfl

@[simp] theorem State.skips_nFloors (s : State) (ws : List Nat) :
    (s.skips ws).nFloors = s.nFloors := rfl

@[simp] theorem State.skips_nResidues (s : State) (ws : List Nat) :
    (s.skips ws).nResidues = s.nResidues := rfl

@[simp] theorem State.skips_nMappings (s : State) (ws : List Nat) :
    (s.skips ws).nMappings = s.nMappings := rfl

@[simp] theorem State.skips_nModes (s : State) (ws : List Nat) :
    (s.skips ws).nModes = s.nModes := rfl

@[simp] theorem State.skips_codebooks (s : State) (ws : List Nat) :
    (s.skips ws).codebooks = s.codebooks := rfl

@[simp] theorem State.skips_floors (s : State) (ws : List Nat) :
    (s.skips ws).floors = s.floors := rfl

@[simp] theorem State.skips_residues (s : State) (ws : List Nat) :
    (s.skips ws).residues = s.residues := rfl

@[simp] theorem State.skips_mappings (s : State) (ws : List Nat) :
    (s.skips ws).mappings = s.mappings := rfl

@[simp] theorem State.skips_modes (s : State) (ws : List Nat) :
    (s.skips ws).modes = s.modes := rfl

@[simp] theorem State.skips_frame (s : State) (ws : List Nat) :
    (s.skips ws).frame = s.frame := rfl

@[simp] theorem State.skips_carry (s : State) (ws : List Nat) :
    (s.skips ws).carry = s.carry := rfl

@[simp] theorem State.skips_prevN (s : State) (ws : List Nat) :
    (s.skips ws).prevN = s.prevN := rfl

@[simp] theorem State.skips_err (s : State) (ws : List Nat) :
    (s.skips ws).err = s.err := rfl

@[simp] theorem State.skips_warn (s : State) (ws : List Nat) :
    (s.skips ws).warn = s.warn.add (s.reader.skips ws).exhausted (s.reader.skips ws).clamped := rfl

@[simp] theorem State.skips_cnt (s : State) (ws : List Nat) :
    (s.skips ws).cnt = s.cnt := rfl

@[simp] theorem State.skips_view (s : State) (ws : List Nat) :
    (s.skips ws).view = s.view := rfl

@[simp] theorem State.skips_src (s : State) (ws : List Nat) :
    (s.skips ws).src = s.src := rfl

@[simp] theorem State.skips_hostQ (s : State) (ws : List Nat) :
    (s.skips ws).hostQ = s.hostQ := rfl

@[simp] theorem State.skips_sinkRoom (s : State) (ws : List Nat) :
    (s.skips ws).sinkRoom = s.sinkRoom := rfl

@[simp] theorem State.skips_out (s : State) (ws : List Nat) :
    (s.skips ws).out = s.out := rfl

@[simp] theorem State.publish_params (s : State) :
    s.publish.params = s.params := rfl

@[simp] theorem State.publish_phase (s : State) :
    s.publish.phase = s.phase := rfl

@[simp] theorem State.publish_seq (s : State) :
    s.publish.seq = s.seq := rfl

@[simp] theorem State.publish_srcPos (s : State) :
    s.publish.srcPos = s.srcPos := rfl

@[simp] theorem State.publish_pageValid (s : State) :
    s.publish.pageValid = s.pageValid := rfl

@[simp] theorem State.publish_segCursor (s : State) :
    s.publish.segCursor = s.segCursor := rfl

@[simp] theorem State.publish_payCursor (s : State) :
    s.publish.payCursor = s.payCursor := rfl

@[simp] theorem State.publish_pktBitpos (s : State) :
    s.publish.pktBitpos = s.pktBitpos := rfl

@[simp] theorem State.publish_packetNo (s : State) :
    s.publish.packetNo = s.packetNo := rfl

@[simp] theorem State.publish_pg (s : State) :
    s.publish.pg = s.pg := rfl

@[simp] theorem State.publish_pkt (s : State) :
    s.publish.pkt = s.pkt := rfl

@[simp] theorem State.publish_pktContinuing (s : State) :
    s.publish.pktContinuing = s.pktContinuing := rfl

@[simp] theorem State.publish_noResidue (s : State) :
    s.publish.noResidue = s.noResidue := rfl

@[simp] theorem State.publish_floorUnused (s : State) :
    s.publish.floorUnused = s.floorUnused := rfl

@[simp] theorem State.publish_floorUsed (s : State) :
    s.publish.floorUsed = s.floorUsed := rfl

@[simp] theorem State.publish_cfg (s : State) :
    s.publish.cfg = s.cfg := rfl

@[simp] theorem State.publish_nCodebooks (s : State) :
    s.publish.nCodebooks = s.nCodebooks := rfl

@[simp] theorem State.publish_nFloors (s : State) :
    s.publish.nFloors = s.nFloors := rfl

@[simp] theorem State.publish_nResidues (s : State) :
    s.publish.nResidues = s.nResidues := rfl

@[simp] theorem State.publish_nMappings (s : State) :
    s.publish.nMappings = s.nMappings := rfl

@[simp] theorem State.publish_nModes (s : State) :
    s.publish.nModes = s.nModes := rfl

@[simp] theorem State.publish_codebooks (s : State) :
    s.publish.codebooks = s.codebooks := rfl

@[simp] theorem State.publish_floors (s : State) :
    s.publish.floors = s.floors := rfl

@[simp] theorem State.publish_residues (s : State) :
    s.publish.residues = s.residues := rfl

@[simp] theorem State.publish_mappings (s : State) :
    s.publish.mappings = s.mappings := rfl

@[simp] theorem State.publish_modes (s : State) :
    s.publish.modes = s.modes := rfl

@[simp] theorem State.publish_frame (s : State) :
    s.publish.frame = s.frame := rfl

@[simp] theorem State.publish_carry (s : State) :
    s.publish.carry = s.carry := rfl

@[simp] theorem State.publish_prevN (s : State) :
    s.publish.prevN = s.prevN := rfl

@[simp] theorem State.publish_err (s : State) :
    s.publish.err = s.err := rfl

@[simp] theorem State.publish_warn (s : State) :
    s.publish.warn = s.warn := rfl

@[simp] theorem State.publish_cnt (s : State) :
    s.publish.cnt = s.cnt := rfl

@[simp] theorem State.publish_view (s : State) :
    s.publish.view = s.mirror := rfl

@[simp] theorem State.publish_src (s : State) :
    s.publish.src = s.src := rfl

@[simp] theorem State.publish_hostQ (s : State) :
    s.publish.hostQ = s.hostQ := rfl

@[simp] theorem State.publish_sinkRoom (s : State) :
    s.publish.sinkRoom = s.sinkRoom := rfl

@[simp] theorem State.publish_out (s : State) :
    s.publish.out = s.out := rfl

@[simp] theorem State.takeSrc_params (s : State) (k : Nat) :
    (s.takeSrc k).params = s.params := rfl

@[simp] theorem State.takeSrc_phase (s : State) (k : Nat) :
    (s.takeSrc k).phase = s.phase := rfl

@[simp] theorem State.takeSrc_seq (s : State) (k : Nat) :
    (s.takeSrc k).seq = s.seq := rfl

@[simp] theorem State.takeSrc_srcPos (s : State) (k : Nat) :
    (s.takeSrc k).srcPos = s.srcPos + k := rfl

@[simp] theorem State.takeSrc_pageValid (s : State) (k : Nat) :
    (s.takeSrc k).pageValid = s.pageValid := rfl

@[simp] theorem State.takeSrc_segCursor (s : State) (k : Nat) :
    (s.takeSrc k).segCursor = s.segCursor := rfl

@[simp] theorem State.takeSrc_payCursor (s : State) (k : Nat) :
    (s.takeSrc k).payCursor = s.payCursor := rfl

@[simp] theorem State.takeSrc_pktBitpos (s : State) (k : Nat) :
    (s.takeSrc k).pktBitpos = s.pktBitpos := rfl

@[simp] theorem State.takeSrc_packetNo (s : State) (k : Nat) :
    (s.takeSrc k).packetNo = s.packetNo := rfl

@[simp] theorem State.takeSrc_pg (s : State) (k : Nat) :
    (s.takeSrc k).pg = s.pg := rfl

@[simp] theorem State.takeSrc_pkt (s : State) (k : Nat) :
    (s.takeSrc k).pkt = s.pkt := rfl

@[simp] theorem State.takeSrc_pktContinuing (s : State) (k : Nat) :
    (s.takeSrc k).pktContinuing = s.pktContinuing := rfl

@[simp] theorem State.takeSrc_noResidue (s : State) (k : Nat) :
    (s.takeSrc k).noResidue = s.noResidue := rfl

@[simp] theorem State.takeSrc_floorUnused (s : State) (k : Nat) :
    (s.takeSrc k).floorUnused = s.floorUnused := rfl

@[simp] theorem State.takeSrc_floorUsed (s : State) (k : Nat) :
    (s.takeSrc k).floorUsed = s.floorUsed := rfl

@[simp] theorem State.takeSrc_cfg (s : State) (k : Nat) :
    (s.takeSrc k).cfg = s.cfg := rfl

@[simp] theorem State.takeSrc_nCodebooks (s : State) (k : Nat) :
    (s.takeSrc k).nCodebooks = s.nCodebooks := rfl

@[simp] theorem State.takeSrc_nFloors (s : State) (k : Nat) :
    (s.takeSrc k).nFloors = s.nFloors := rfl

@[simp] theorem State.takeSrc_nResidues (s : State) (k : Nat) :
    (s.takeSrc k).nResidues = s.nResidues := rfl

@[simp] theorem State.takeSrc_nMappings (s : State) (k : Nat) :
    (s.takeSrc k).nMappings = s.nMappings := rfl

@[simp] theorem State.takeSrc_nModes (s : State) (k : Nat) :
    (s.takeSrc k).nModes = s.nModes := rfl

@[simp] theorem State.takeSrc_codebooks (s : State) (k : Nat) :
    (s.takeSrc k).codebooks = s.codebooks := rfl

@[simp] theorem State.takeSrc_floors (s : State) (k : Nat) :
    (s.takeSrc k).floors = s.floors := rfl

@[simp] theorem State.takeSrc_residues (s : State) (k : Nat) :
    (s.takeSrc k).residues = s.residues := rfl

@[simp] theorem State.takeSrc_mappings (s : State) (k : Nat) :
    (s.takeSrc k).mappings = s.mappings := rfl

@[simp] theorem State.takeSrc_modes (s : State) (k : Nat) :
    (s.takeSrc k).modes = s.modes := rfl

@[simp] theorem State.takeSrc_frame (s : State) (k : Nat) :
    (s.takeSrc k).frame = s.frame := rfl

@[simp] theorem State.takeSrc_carry (s : State) (k : Nat) :
    (s.takeSrc k).carry = s.carry := rfl

@[simp] theorem State.takeSrc_prevN (s : State) (k : Nat) :
    (s.takeSrc k).prevN = s.prevN := rfl

@[simp] theorem State.takeSrc_err (s : State) (k : Nat) :
    (s.takeSrc k).err = s.err := rfl

@[simp] theorem State.takeSrc_warn (s : State) (k : Nat) :
    (s.takeSrc k).warn = s.warn := rfl

@[simp] theorem State.takeSrc_cnt (s : State) (k : Nat) :
    (s.takeSrc k).cnt = s.cnt := rfl

@[simp] theorem State.takeSrc_view (s : State) (k : Nat) :
    (s.takeSrc k).view = s.view := rfl

@[simp] theorem State.takeSrc_src (s : State) (k : Nat) :
    (s.takeSrc k).src = s.src.drop k := rfl

@[simp] theorem State.takeSrc_hostQ (s : State) (k : Nat) :
    (s.takeSrc k).hostQ = s.hostQ := rfl

@[simp] theorem State.takeSrc_sinkRoom (s : State) (k : Nat) :
    (s.takeSrc k).sinkRoom = s.sinkRoom := rfl

@[simp] theorem State.takeSrc_out (s : State) (k : Nat) :
    (s.takeSrc k).out = s.out := rfl

@[simp] theorem State.modifyBook_params (s : State) (f : Codebook → Codebook) :
    (s.modifyBook f).params = s.params := rfl

@[simp] theorem State.modifyBook_phase (s : State) (f : Codebook → Codebook) :
    (s.modifyBook f).phase = s.phase := rfl

@[simp] theorem State.modifyBook_seq (s : State) (f : Codebook → Codebook) :
    (s.modifyBook f).seq = s.seq := rfl

@[simp] theorem State.modifyBook_srcPos (s : State) (f : Codebook → Codebook) :
    (s.modifyBook f).srcPos = s.srcPos := rfl

@[simp] theorem State.modifyBook_pageValid (s : State) (f : Codebook → Codebook) :
    (s.modifyBook f).pageValid = s.pageValid := rfl

@[simp] theorem State.modifyBook_segCursor (s : State) (f : Codebook → Codebook) :
    (s.modifyBook f).segCursor = s.segCursor := rfl

@[simp] theorem State.modifyBook_payCursor (s : State) (f : Codebook → Codebook) :
    (s.modifyBook f).payCursor = s.payCursor := rfl

@[simp] theorem State.modifyBook_pktBitpos (s : State) (f : Codebook → Codebook) :
    (s.modifyBook f).pktBitpos = s.pktBitpos := rfl

@[simp] theorem State.modifyBook_packetNo (s : State) (f : Codebook → Codebook) :
    (s.modifyBook f).packetNo = s.packetNo := rfl

@[simp] theorem State.modifyBook_pg (s : State) (f : Codebook → Codebook) :
    (s.modifyBook f).pg = s.pg := rfl

@[simp] theorem State.modifyBook_pkt (s : State) (f : Codebook → Codebook) :
    (s.modifyBook f).pkt = s.pkt := rfl

@[simp] theorem State.modifyBook_pktContinuing (s : State) (f : Codebook → Codebook) :
    (s.modifyBook f).pktContinuing = s.pktContinuing := rfl

@[simp] theorem State.modifyBook_noResidue (s : State) (f : Codebook → Codebook) :
    (s.modifyBook f).noResidue = s.noResidue := rfl

@[simp] theorem State.modifyBook_floorUnused (s : State) (f : Codebook → Codebook) :
    (s.modifyBook f).floorUnused = s.floorUnused := rfl

@[simp] theorem State.modifyBook_floorUsed (s : State) (f : Codebook → Codebook) :
    (s.modifyBook f).floorUsed = s.floorUsed := rfl

@[simp] theorem State.modifyBook_cfg (s : State) (f : Codebook → Codebook) :
    (s.modifyBook f).cfg = s.cfg := rfl

@[simp] theorem State.modifyBook_nCodebooks (s : State) (f : Codebook → Codebook) :
    (s.modifyBook f).nCodebooks = s.nCodebooks := rfl

@[simp] theorem State.modifyBook_nFloors (s : State) (f : Codebook → Codebook) :
    (s.modifyBook f).nFloors = s.nFloors := rfl

@[simp] theorem State.modifyBook_nResidues (s : State) (f : Codebook → Codebook) :
    (s.modifyBook f).nResidues = s.nResidues := rfl

@[simp] theorem State.modifyBook_nMappings (s : State) (f : Codebook → Codebook) :
    (s.modifyBook f).nMappings = s.nMappings := rfl

@[simp] theorem State.modifyBook_nModes (s : State) (f : Codebook → Codebook) :
    (s.modifyBook f).nModes = s.nModes := rfl

@[simp] theorem State.modifyBook_codebooks (s : State) (f : Codebook → Codebook) :
    (s.modifyBook f).codebooks = modifyAt s.codebooks s.bookIndex f := rfl

@[simp] theorem State.modifyBook_floors (s : State) (f : Codebook → Codebook) :
    (s.modifyBook f).floors = s.floors := rfl

@[simp] theorem State.modifyBook_residues (s : State) (f : Codebook → Codebook) :
    (s.modifyBook f).residues = s.residues := rfl

@[simp] theorem State.modifyBook_mappings (s : State) (f : Codebook → Codebook) :
    (s.modifyBook f).mappings = s.mappings := rfl

@[simp] theorem State.modifyBook_modes (s : State) (f : Codebook → Codebook) :
    (s.modifyBook f).modes = s.modes := rfl

@[simp] theorem State.modifyBook_frame (s : State) (f : Codebook → Codebook) :
    (s.modifyBook f).frame = s.frame := rfl

@[simp] theorem State.modifyBook_carry (s : State) (f : Codebook → Codebook) :
    (s.modifyBook f).carry = s.carry := rfl

@[simp] theorem State.modifyBook_prevN (s : State) (f : Codebook → Codebook) :
    (s.modifyBook f).prevN = s.prevN := rfl

@[simp] theorem State.modifyBook_err (s : State) (f : Codebook → Codebook) :
    (s.modifyBook f).err = s.err := rfl

@[simp] theorem State.modifyBook_warn (s : State) (f : Codebook → Codebook) :
    (s.modifyBook f).warn = s.warn := rfl

@[simp] theorem State.modifyBook_cnt (s : State) (f : Codebook → Codebook) :
    (s.modifyBook f).cnt = s.cnt := rfl

@[simp] theorem State.modifyBook_view (s : State) (f : Codebook → Codebook) :
    (s.modifyBook f).view = s.view := rfl

@[simp] theorem State.modifyBook_src (s : State) (f : Codebook → Codebook) :
    (s.modifyBook f).src = s.src := rfl

@[simp] theorem State.modifyBook_hostQ (s : State) (f : Codebook → Codebook) :
    (s.modifyBook f).hostQ = s.hostQ := rfl

@[simp] theorem State.modifyBook_sinkRoom (s : State) (f : Codebook → Codebook) :
    (s.modifyBook f).sinkRoom = s.sinkRoom := rfl

@[simp] theorem State.modifyBook_out (s : State) (f : Codebook → Codebook) :
    (s.modifyBook f).out = s.out := rfl

@[simp] theorem State.clearFrameFlags_params (s : State) :
    s.clearFrameFlags.params = s.params := rfl

@[simp] theorem State.clearFrameFlags_phase (s : State) :
    s.clearFrameFlags.phase = s.phase := rfl

@[simp] theorem State.clearFrameFlags_seq (s : State) :
    s.clearFrameFlags.seq = s.seq := rfl

@[simp] theorem State.clearFrameFlags_srcPos (s : State) :
    s.clearFrameFlags.srcPos = s.srcPos := rfl

@[simp] theorem State.clearFrameFlags_pageValid (s : State) :
    s.clearFrameFlags.pageValid = s.pageValid := rfl

@[simp] theorem State.clearFrameFlags_segCursor (s : State) :
    s.clearFrameFlags.segCursor = s.segCursor := rfl

@[simp] theorem State.clearFrameFlags_payCursor (s : State) :
    s.clearFrameFlags.payCursor = s.payCursor := rfl

@[simp] theorem State.clearFrameFlags_pktBitpos (s : State) :
    s.clearFrameFlags.pktBitpos = s.pktBitpos := rfl

@[simp] theorem State.clearFrameFlags_packetNo (s : State) :
    s.clearFrameFlags.packetNo = s.packetNo := rfl

@[simp] theorem State.clearFrameFlags_pg (s : State) :
    s.clearFrameFlags.pg = s.pg := rfl

@[simp] theorem State.clearFrameFlags_pkt (s : State) :
    s.clearFrameFlags.pkt = s.pkt := rfl

@[simp] theorem State.clearFrameFlags_pktContinuing (s : State) :
    s.clearFrameFlags.pktContinuing = s.pktContinuing := rfl

@[simp] theorem State.clearFrameFlags_noResidue (s : State) :
    s.clearFrameFlags.noResidue = List.replicate s.cfg.channels false := rfl

@[simp] theorem State.clearFrameFlags_floorUnused (s : State) :
    s.clearFrameFlags.floorUnused = List.replicate s.cfg.channels false := rfl

@[simp] theorem State.clearFrameFlags_floorUsed (s : State) :
    s.clearFrameFlags.floorUsed = s.floorUsed ++ List.replicate (s.cfg.channels - s.floorUsed.length) [] := rfl

@[simp] theorem State.clearFrameFlags_cfg (s : State) :
    s.clearFrameFlags.cfg = s.cfg := rfl

@[simp] theorem State.clearFrameFlags_nCodebooks (s : State) :
    s.clearFrameFlags.nCodebooks = s.nCodebooks := rfl

@[simp] theorem State.clearFrameFlags_nFloors (s : State) :
    s.clearFrameFlags.nFloors = s.nFloors := rfl

@[simp] theorem State.clearFrameFlags_nResidues (s : State) :
    s.clearFrameFlags.nResidues = s.nResidues := rfl

@[simp] theorem State.clearFrameFlags_nMappings (s : State) :
    s.clearFrameFlags.nMappings = s.nMappings := rfl

@[simp] theorem State.clearFrameFlags_nModes (s : State) :
    s.clearFrameFlags.nModes = s.nModes := rfl

@[simp] theorem State.clearFrameFlags_codebooks (s : State) :
    s.clearFrameFlags.codebooks = s.codebooks := rfl

@[simp] theorem State.clearFrameFlags_floors (s : State) :
    s.clearFrameFlags.floors = s.floors := rfl

@[simp] theorem State.clearFrameFlags_residues (s : State) :
    s.clearFrameFlags.residues = s.residues := rfl

@[simp] theorem State.clearFrameFlags_mappings (s : State) :
    s.clearFrameFlags.mappings = s.mappings := rfl

@[simp] theorem State.clearFrameFlags_modes (s : State) :
    s.clearFrameFlags.modes = s.modes := rfl

@[simp] theorem State.clearFrameFlags_frame (s : State) :
    s.clearFrameFlags.frame = s.frame := rfl

@[simp] theorem State.clearFrameFlags_carry (s : State) :
    s.clearFrameFlags.carry = s.carry := rfl

@[simp] theorem State.clearFrameFlags_prevN (s : State) :
    s.clearFrameFlags.prevN = s.prevN := rfl

@[simp] theorem State.clearFrameFlags_err (s : State) :
    s.clearFrameFlags.err = s.err := rfl

@[simp] theorem State.clearFrameFlags_warn (s : State) :
    s.clearFrameFlags.warn = s.warn := rfl

@[simp] theorem State.clearFrameFlags_cnt (s : State) :
    s.clearFrameFlags.cnt = s.cnt := rfl

@[simp] theorem State.clearFrameFlags_view (s : State) :
    s.clearFrameFlags.view = s.view := rfl

@[simp] theorem State.clearFrameFlags_src (s : State) :
    s.clearFrameFlags.src = s.src := rfl

@[simp] theorem State.clearFrameFlags_hostQ (s : State) :
    s.clearFrameFlags.hostQ = s.hostQ := rfl

@[simp] theorem State.clearFrameFlags_sinkRoom (s : State) :
    s.clearFrameFlags.sinkRoom = s.sinkRoom := rfl

@[simp] theorem State.clearFrameFlags_out (s : State) :
    s.clearFrameFlags.out = s.out := rfl

@[simp] theorem State.markFloor_params (s : State) (ch : Nat) (u : Bool) :
    (s.markFloor ch u).params = s.params := rfl

@[simp] theorem State.markFloor_phase (s : State) (ch : Nat) (u : Bool) :
    (s.markFloor ch u).phase = s.phase := rfl

@[simp] theorem State.markFloor_seq (s : State) (ch : Nat) (u : Bool) :
    (s.markFloor ch u).seq = s.seq := rfl

@[simp] theorem State.markFloor_srcPos (s : State) (ch : Nat) (u : Bool) :
    (s.markFloor ch u).srcPos = s.srcPos := rfl

@[simp] theorem State.markFloor_pageValid (s : State) (ch : Nat) (u : Bool) :
    (s.markFloor ch u).pageValid = s.pageValid := rfl

@[simp] theorem State.markFloor_segCursor (s : State) (ch : Nat) (u : Bool) :
    (s.markFloor ch u).segCursor = s.segCursor := rfl

@[simp] theorem State.markFloor_payCursor (s : State) (ch : Nat) (u : Bool) :
    (s.markFloor ch u).payCursor = s.payCursor := rfl

@[simp] theorem State.markFloor_pktBitpos (s : State) (ch : Nat) (u : Bool) :
    (s.markFloor ch u).pktBitpos = s.pktBitpos := rfl

@[simp] theorem State.markFloor_packetNo (s : State) (ch : Nat) (u : Bool) :
    (s.markFloor ch u).packetNo = s.packetNo := rfl

@[simp] theorem State.markFloor_pg (s : State) (ch : Nat) (u : Bool) :
    (s.markFloor ch u).pg = s.pg := rfl

@[simp] theorem State.markFloor_pkt (s : State) (ch : Nat) (u : Bool) :
    (s.markFloor ch u).pkt = s.pkt := rfl

@[simp] theorem State.markFloor_pktContinuing (s : State) (ch : Nat) (u : Bool) :
    (s.markFloor ch u).pktContinuing = s.pktContinuing := rfl

@[simp] theorem State.markFloor_noResidue (s : State) (ch : Nat) (u : Bool) :
    (s.markFloor ch u).noResidue = s.noResidue.set ch u := rfl

@[simp] theorem State.markFloor_floorUnused (s : State) (ch : Nat) (u : Bool) :
    (s.markFloor ch u).floorUnused = s.floorUnused.set ch u := rfl

@[simp] theorem State.markFloor_floorUsed (s : State) (ch : Nat) (u : Bool) :
    (s.markFloor ch u).floorUsed = if u then s.floorUsed.set ch [] else s.floorUsed := rfl

@[simp] theorem State.markFloor_cfg (s : State) (ch : Nat) (u : Bool) :
    (s.markFloor ch u).cfg = s.cfg := rfl

@[simp] theorem State.markFloor_nCodebooks (s : State) (ch : Nat) (u : Bool) :
    (s.markFloor ch u).nCodebooks = s.nCodebooks := rfl

@[simp] theorem State.markFloor_nFloors (s : State) (ch : Nat) (u : Bool) :
    (s.markFloor ch u).nFloors = s.nFloors := rfl

@[simp] theorem State.markFloor_nResidues (s : State) (ch : Nat) (u : Bool) :
    (s.markFloor ch u).nResidues = s.nResidues := rfl

@[simp] theorem State.markFloor_nMappings (s : State) (ch : Nat) (u : Bool) :
    (s.markFloor ch u).nMappings = s.nMappings := rfl

@[simp] theorem State.markFloor_nModes (s : State) (ch : Nat) (u : Bool) :
    (s.markFloor ch u).nModes = s.nModes := rfl

@[simp] theorem State.markFloor_codebooks (s : State) (ch : Nat) (u : Bool) :
    (s.markFloor ch u).codebooks = s.codebooks := rfl

@[simp] theorem State.markFloor_floors (s : State) (ch : Nat) (u : Bool) :
    (s.markFloor ch u).floors = s.floors := rfl

@[simp] theorem State.markFloor_residues (s : State) (ch : Nat) (u : Bool) :
    (s.markFloor ch u).residues = s.residues := rfl

@[simp] theorem State.markFloor_mappings (s : State) (ch : Nat) (u : Bool) :
    (s.markFloor ch u).mappings = s.mappings := rfl

@[simp] theorem State.markFloor_modes (s : State) (ch : Nat) (u : Bool) :
    (s.markFloor ch u).modes = s.modes := rfl

@[simp] theorem State.markFloor_frame (s : State) (ch : Nat) (u : Bool) :
    (s.markFloor ch u).frame = s.frame := rfl

@[simp] theorem State.markFloor_carry (s : State) (ch : Nat) (u : Bool) :
    (s.markFloor ch u).carry = s.carry := rfl

@[simp] theorem State.markFloor_prevN (s : State) (ch : Nat) (u : Bool) :
    (s.markFloor ch u).prevN = s.prevN := rfl

@[simp] theorem State.markFloor_err (s : State) (ch : Nat) (u : Bool) :
    (s.markFloor ch u).err = s.err := rfl

@[simp] theorem State.markFloor_warn (s : State) (ch : Nat) (u : Bool) :
    (s.markFloor ch u).warn = s.warn := rfl

@[simp] theorem State.markFloor_cnt (s : State) (ch : Nat) (u : Bool) :
    (s.markFloor ch u).cnt = s.cnt := rfl

@[simp] theorem State.markFloor_view (s : State) (ch : Nat) (u : Bool) :
    (s.markFloor ch u).view = s.view := rfl

@[simp] theorem State.markFloor_src (s : State) (ch : Nat) (u : Bool) :
    (s.markFloor ch u).src = s.src := rfl

@[simp] theorem State.markFloor_hostQ (s : State) (ch : Nat) (u : Bool) :
    (s.markFloor ch u).hostQ = s.hostQ := rfl

@[simp] theorem State.markFloor_sinkRoom (s : State) (ch : Nat) (u : Bool) :
    (s.markFloor ch u).sinkRoom = s.sinkRoom := rfl

@[simp] theorem State.markFloor_out (s : State) (ch : Nat) (u : Bool) :
    (s.markFloor ch u).out = s.out := rfl

@[simp] theorem State.storeCurve_params (s : State) (ch : Nat) (y : List Int) (u : List Bool) (c : List Int) :
    (s.storeCurve ch y u c).params = s.params := rfl

@[simp] theorem State.storeCurve_phase (s : State) (ch : Nat) (y : List Int) (u : List Bool) (c : List Int) :
    (s.storeCurve ch y u c).phase = s.phase := rfl

@[simp] theorem State.storeCurve_seq (s : State) (ch : Nat) (y : List Int) (u : List Bool) (c : List Int) :
    (s.storeCurve ch y u c).seq = s.seq := rfl

@[simp] theorem State.storeCurve_srcPos (s : State) (ch : Nat) (y : List Int) (u : List Bool) (c : List Int) :
    (s.storeCurve ch y u c).srcPos = s.srcPos := rfl

@[simp] theorem State.storeCurve_pageValid (s : State) (ch : Nat) (y : List Int) (u : List Bool) (c : List Int) :
    (s.storeCurve ch y u c).pageValid = s.pageValid := rfl

@[simp] theorem State.storeCurve_segCursor (s : State) (ch : Nat) (y : List Int) (u : List Bool) (c : List Int) :
    (s.storeCurve ch y u c).segCursor = s.segCursor := rfl

@[simp] theorem State.storeCurve_payCursor (s : State) (ch : Nat) (y : List Int) (u : List Bool) (c : List Int) :
    (s.storeCurve ch y u c).payCursor = s.payCursor := rfl

@[simp] theorem State.storeCurve_pktBitpos (s : State) (ch : Nat) (y : List Int) (u : List Bool) (c : List Int) :
    (s.storeCurve ch y u c).pktBitpos = s.pktBitpos := rfl

@[simp] theorem State.storeCurve_packetNo (s : State) (ch : Nat) (y : List Int) (u : List Bool) (c : List Int) :
    (s.storeCurve ch y u c).packetNo = s.packetNo := rfl

@[simp] theorem State.storeCurve_pg (s : State) (ch : Nat) (y : List Int) (u : List Bool) (c : List Int) :
    (s.storeCurve ch y u c).pg = s.pg := rfl

@[simp] theorem State.storeCurve_pkt (s : State) (ch : Nat) (y : List Int) (u : List Bool) (c : List Int) :
    (s.storeCurve ch y u c).pkt = s.pkt := rfl

@[simp] theorem State.storeCurve_pktContinuing (s : State) (ch : Nat) (y : List Int) (u : List Bool) (c : List Int) :
    (s.storeCurve ch y u c).pktContinuing = s.pktContinuing := rfl

@[simp] theorem State.storeCurve_noResidue (s : State) (ch : Nat) (y : List Int) (u : List Bool) (c : List Int) :
    (s.storeCurve ch y u c).noResidue = s.noResidue := rfl

@[simp] theorem State.storeCurve_floorUnused (s : State) (ch : Nat) (y : List Int) (u : List Bool) (c : List Int) :
    (s.storeCurve ch y u c).floorUnused = s.floorUnused := rfl

@[simp] theorem State.storeCurve_floorUsed (s : State) (ch : Nat) (y : List Int) (u : List Bool) (c : List Int) :
    (s.storeCurve ch y u c).floorUsed = s.floorUsed.set ch (overwrite u (s.floorUsed.getD ch [])) := rfl

@[simp] theorem State.storeCurve_cfg (s : State) (ch : Nat) (y : List Int) (u : List Bool) (c : List Int) :
    (s.storeCurve ch y u c).cfg = s.cfg := rfl

@[simp] theorem State.storeCurve_nCodebooks (s : State) (ch : Nat) (y : List Int) (u : List Bool) (c : List Int) :
    (s.storeCurve ch y u c).nCodebooks = s.nCodebooks := rfl

@[simp] theorem State.storeCurve_nFloors (s : State) (ch : Nat) (y : List Int) (u : List Bool) (c : List Int) :
    (s.storeCurve ch y u c).nFloors = s.nFloors := rfl

@[simp] theorem State.storeCurve_nResidues (s : State) (ch : Nat) (y : List Int) (u : List Bool) (c : List Int) :
    (s.storeCurve ch y u c).nResidues = s.nResidues := rfl

@[simp] theorem State.storeCurve_nMappings (s : State) (ch : Nat) (y : List Int) (u : List Bool) (c : List Int) :
    (s.storeCurve ch y u c).nMappings = s.nMappings := rfl

@[simp] theorem State.storeCurve_nModes (s : State) (ch : Nat) (y : List Int) (u : List Bool) (c : List Int) :
    (s.storeCurve ch y u c).nModes = s.nModes := rfl

@[simp] theorem State.storeCurve_codebooks (s : State) (ch : Nat) (y : List Int) (u : List Bool) (c : List Int) :
    (s.storeCurve ch y u c).codebooks = s.codebooks := rfl

@[simp] theorem State.storeCurve_floors (s : State) (ch : Nat) (y : List Int) (u : List Bool) (c : List Int) :
    (s.storeCurve ch y u c).floors = s.floors := rfl

@[simp] theorem State.storeCurve_residues (s : State) (ch : Nat) (y : List Int) (u : List Bool) (c : List Int) :
    (s.storeCurve ch y u c).residues = s.residues := rfl

@[simp] theorem State.storeCurve_mappings (s : State) (ch : Nat) (y : List Int) (u : List Bool) (c : List Int) :
    (s.storeCurve ch y u c).mappings = s.mappings := rfl

@[simp] theorem State.storeCurve_modes (s : State) (ch : Nat) (y : List Int) (u : List Bool) (c : List Int) :
    (s.storeCurve ch y u c).modes = s.modes := rfl

@[simp] theorem State.storeCurve_frame (s : State) (ch : Nat) (y : List Int) (u : List Bool) (c : List Int) :
    (s.storeCurve ch y u c).frame = { s.frame with
        floorFinalY := s.frame.floorFinalY.set ch y, floorInt := s.frame.floorInt.set ch c } := rfl

@[simp] theorem State.storeCurve_carry (s : State) (ch : Nat) (y : List Int) (u : List Bool) (c : List Int) :
    (s.storeCurve ch y u c).carry = s.carry := rfl

@[simp] theorem State.storeCurve_prevN (s : State) (ch : Nat) (y : List Int) (u : List Bool) (c : List Int) :
    (s.storeCurve ch y u c).prevN = s.prevN := rfl

@[simp] theorem State.storeCurve_err (s : State) (ch : Nat) (y : List Int) (u : List Bool) (c : List Int) :
    (s.storeCurve ch y u c).err = s.err := rfl

@[simp] theorem State.storeCurve_warn (s : State) (ch : Nat) (y : List Int) (u : List Bool) (c : List Int) :
    (s.storeCurve ch y u c).warn = s.warn := rfl

@[simp] theorem State.storeCurve_cnt (s : State) (ch : Nat) (y : List Int) (u : List Bool) (c : List Int) :
    (s.storeCurve ch y u c).cnt = s.cnt := rfl

@[simp] theorem State.storeCurve_view (s : State) (ch : Nat) (y : List Int) (u : List Bool) (c : List Int) :
    (s.storeCurve ch y u c).view = s.view := rfl

@[simp] theorem State.storeCurve_src (s : State) (ch : Nat) (y : List Int) (u : List Bool) (c : List Int) :
    (s.storeCurve ch y u c).src = s.src := rfl

@[simp] theorem State.storeCurve_hostQ (s : State) (ch : Nat) (y : List Int) (u : List Bool) (c : List Int) :
    (s.storeCurve ch y u c).hostQ = s.hostQ := rfl

@[simp] theorem State.storeCurve_sinkRoom (s : State) (ch : Nat) (y : List Int) (u : List Bool) (c : List Int) :
    (s.storeCurve ch y u c).sinkRoom = s.sinkRoom := rfl

@[simp] theorem State.storeCurve_out (s : State) (ch : Nat) (y : List Int) (u : List Bool) (c : List Int) :
    (s.storeCurve ch y u c).out = s.out := rfl

@[simp] theorem State.storeFloor_params (s : State) (ch : Nat) (v : List F32) :
    (s.storeFloor ch v).params = s.params := rfl

@[simp] theorem State.storeFloor_phase (s : State) (ch : Nat) (v : List F32) :
    (s.storeFloor ch v).phase = s.phase := rfl

@[simp] theorem State.storeFloor_seq (s : State) (ch : Nat) (v : List F32) :
    (s.storeFloor ch v).seq = s.seq := rfl

@[simp] theorem State.storeFloor_srcPos (s : State) (ch : Nat) (v : List F32) :
    (s.storeFloor ch v).srcPos = s.srcPos := rfl

@[simp] theorem State.storeFloor_pageValid (s : State) (ch : Nat) (v : List F32) :
    (s.storeFloor ch v).pageValid = s.pageValid := rfl

@[simp] theorem State.storeFloor_segCursor (s : State) (ch : Nat) (v : List F32) :
    (s.storeFloor ch v).segCursor = s.segCursor := rfl

@[simp] theorem State.storeFloor_payCursor (s : State) (ch : Nat) (v : List F32) :
    (s.storeFloor ch v).payCursor = s.payCursor := rfl

@[simp] theorem State.storeFloor_pktBitpos (s : State) (ch : Nat) (v : List F32) :
    (s.storeFloor ch v).pktBitpos = s.pktBitpos := rfl

@[simp] theorem State.storeFloor_packetNo (s : State) (ch : Nat) (v : List F32) :
    (s.storeFloor ch v).packetNo = s.packetNo := rfl

@[simp] theorem State.storeFloor_pg (s : State) (ch : Nat) (v : List F32) :
    (s.storeFloor ch v).pg = s.pg := rfl

@[simp] theorem State.storeFloor_pkt (s : State) (ch : Nat) (v : List F32) :
    (s.storeFloor ch v).pkt = s.pkt := rfl

@[simp] theorem State.storeFloor_pktContinuing (s : State) (ch : Nat) (v : List F32) :
    (s.storeFloor ch v).pktContinuing = s.pktContinuing := rfl

@[simp] theorem State.storeFloor_noResidue (s : State) (ch : Nat) (v : List F32) :
    (s.storeFloor ch v).noResidue = s.noResidue := rfl

@[simp] theorem State.storeFloor_floorUnused (s : State) (ch : Nat) (v : List F32) :
    (s.storeFloor ch v).floorUnused = s.floorUnused := rfl

@[simp] theorem State.storeFloor_floorUsed (s : State) (ch : Nat) (v : List F32) :
    (s.storeFloor ch v).floorUsed = s.floorUsed := rfl

@[simp] theorem State.storeFloor_cfg (s : State) (ch : Nat) (v : List F32) :
    (s.storeFloor ch v).cfg = s.cfg := rfl

@[simp] theorem State.storeFloor_nCodebooks (s : State) (ch : Nat) (v : List F32) :
    (s.storeFloor ch v).nCodebooks = s.nCodebooks := rfl

@[simp] theorem State.storeFloor_nFloors (s : State) (ch : Nat) (v : List F32) :
    (s.storeFloor ch v).nFloors = s.nFloors := rfl

@[simp] theorem State.storeFloor_nResidues (s : State) (ch : Nat) (v : List F32) :
    (s.storeFloor ch v).nResidues = s.nResidues := rfl

@[simp] theorem State.storeFloor_nMappings (s : State) (ch : Nat) (v : List F32) :
    (s.storeFloor ch v).nMappings = s.nMappings := rfl

@[simp] theorem State.storeFloor_nModes (s : State) (ch : Nat) (v : List F32) :
    (s.storeFloor ch v).nModes = s.nModes := rfl

@[simp] theorem State.storeFloor_codebooks (s : State) (ch : Nat) (v : List F32) :
    (s.storeFloor ch v).codebooks = s.codebooks := rfl

@[simp] theorem State.storeFloor_floors (s : State) (ch : Nat) (v : List F32) :
    (s.storeFloor ch v).floors = s.floors := rfl

@[simp] theorem State.storeFloor_residues (s : State) (ch : Nat) (v : List F32) :
    (s.storeFloor ch v).residues = s.residues := rfl

@[simp] theorem State.storeFloor_mappings (s : State) (ch : Nat) (v : List F32) :
    (s.storeFloor ch v).mappings = s.mappings := rfl

@[simp] theorem State.storeFloor_modes (s : State) (ch : Nat) (v : List F32) :
    (s.storeFloor ch v).modes = s.modes := rfl

@[simp] theorem State.storeFloor_frame (s : State) (ch : Nat) (v : List F32) :
    (s.storeFloor ch v).frame = { s.frame with floor := s.frame.floor.set ch v } := rfl

@[simp] theorem State.storeFloor_carry (s : State) (ch : Nat) (v : List F32) :
    (s.storeFloor ch v).carry = s.carry := rfl

@[simp] theorem State.storeFloor_prevN (s : State) (ch : Nat) (v : List F32) :
    (s.storeFloor ch v).prevN = s.prevN := rfl

@[simp] theorem State.storeFloor_err (s : State) (ch : Nat) (v : List F32) :
    (s.storeFloor ch v).err = s.err := rfl

@[simp] theorem State.storeFloor_warn (s : State) (ch : Nat) (v : List F32) :
    (s.storeFloor ch v).warn = s.warn := rfl

@[simp] theorem State.storeFloor_cnt (s : State) (ch : Nat) (v : List F32) :
    (s.storeFloor ch v).cnt = s.cnt := rfl

@[simp] theorem State.storeFloor_view (s : State) (ch : Nat) (v : List F32) :
    (s.storeFloor ch v).view = s.view := rfl

@[simp] theorem State.storeFloor_src (s : State) (ch : Nat) (v : List F32) :
    (s.storeFloor ch v).src = s.src := rfl

@[simp] theorem State.storeFloor_hostQ (s : State) (ch : Nat) (v : List F32) :
    (s.storeFloor ch v).hostQ = s.hostQ := rfl

@[simp] theorem State.storeFloor_sinkRoom (s : State) (ch : Nat) (v : List F32) :
    (s.storeFloor ch v).sinkRoom = s.sinkRoom := rfl

@[simp] theorem State.storeFloor_out (s : State) (ch : Nat) (v : List F32) :
    (s.storeFloor ch v).out = s.out := rfl

@[simp] theorem State.raise_params (s : State) (c : ErrCode) (i : Nat) :
    (s.raise c i).params = s.params := rfl

@[simp] theorem State.raise_phase (s : State) (c : ErrCode) (i : Nat) :
    (s.raise c i).phase = .error := rfl

@[simp] theorem State.raise_seq (s : State) (c : ErrCode) (i : Nat) :
    (s.raise c i).seq = s.seq := rfl

@[simp] theorem State.raise_srcPos (s : State) (c : ErrCode) (i : Nat) :
    (s.raise c i).srcPos = s.srcPos := rfl

@[simp] theorem State.raise_pageValid (s : State) (c : ErrCode) (i : Nat) :
    (s.raise c i).pageValid = s.pageValid := rfl

@[simp] theorem State.raise_segCursor (s : State) (c : ErrCode) (i : Nat) :
    (s.raise c i).segCursor = s.segCursor := rfl

@[simp] theorem State.raise_payCursor (s : State) (c : ErrCode) (i : Nat) :
    (s.raise c i).payCursor = s.payCursor := rfl

@[simp] theorem State.raise_pktBitpos (s : State) (c : ErrCode) (i : Nat) :
    (s.raise c i).pktBitpos = s.pktBitpos := rfl

@[simp] theorem State.raise_packetNo (s : State) (c : ErrCode) (i : Nat) :
    (s.raise c i).packetNo = s.packetNo := rfl

@[simp] theorem State.raise_pg (s : State) (c : ErrCode) (i : Nat) :
    (s.raise c i).pg = s.pg := rfl

@[simp] theorem State.raise_pkt (s : State) (c : ErrCode) (i : Nat) :
    (s.raise c i).pkt = s.pkt := rfl

@[simp] theorem State.raise_pktContinuing (s : State) (c : ErrCode) (i : Nat) :
    (s.raise c i).pktContinuing = s.pktContinuing := rfl

@[simp] theorem State.raise_noResidue (s : State) (c : ErrCode) (i : Nat) :
    (s.raise c i).noResidue = s.noResidue := rfl

@[simp] theorem State.raise_floorUnused (s : State) (c : ErrCode) (i : Nat) :
    (s.raise c i).floorUnused = s.floorUnused := rfl

@[simp] theorem State.raise_floorUsed (s : State) (c : ErrCode) (i : Nat) :
    (s.raise c i).floorUsed = s.floorUsed := rfl

@[simp] theorem State.raise_cfg (s : State) (c : ErrCode) (i : Nat) :
    (s.raise c i).cfg = s.cfg := rfl

@[simp] theorem State.raise_nCodebooks (s : State) (c : ErrCode) (i : Nat) :
    (s.raise c i).nCodebooks = s.nCodebooks := rfl

@[simp] theorem State.raise_nFloors (s : State) (c : ErrCode) (i : Nat) :
    (s.raise c i).nFloors = s.nFloors := rfl

@[simp] theorem State.raise_nResidues (s : State) (c : ErrCode) (i : Nat) :
    (s.raise c i).nResidues = s.nResidues := rfl

@[simp] theorem State.raise_nMappings (s : State) (c : ErrCode) (i : Nat) :
    (s.raise c i).nMappings = s.nMappings := rfl

@[simp] theorem State.raise_nModes (s : State) (c : ErrCode) (i : Nat) :
    (s.raise c i).nModes = s.nModes := rfl

@[simp] theorem State.raise_codebooks (s : State) (c : ErrCode) (i : Nat) :
    (s.raise c i).codebooks = s.codebooks := rfl

@[simp] theorem State.raise_floors (s : State) (c : ErrCode) (i : Nat) :
    (s.raise c i).floors = s.floors := rfl

@[simp] theorem State.raise_residues (s : State) (c : ErrCode) (i : Nat) :
    (s.raise c i).residues = s.residues := rfl

@[simp] theorem State.raise_mappings (s : State) (c : ErrCode) (i : Nat) :
    (s.raise c i).mappings = s.mappings := rfl

@[simp] theorem State.raise_modes (s : State) (c : ErrCode) (i : Nat) :
    (s.raise c i).modes = s.modes := rfl

@[simp] theorem State.raise_frame (s : State) (c : ErrCode) (i : Nat) :
    (s.raise c i).frame = s.frame := rfl

@[simp] theorem State.raise_carry (s : State) (c : ErrCode) (i : Nat) :
    (s.raise c i).carry = s.carry := rfl

@[simp] theorem State.raise_prevN (s : State) (c : ErrCode) (i : Nat) :
    (s.raise c i).prevN = s.prevN := rfl

@[simp] theorem State.raise_warn (s : State) (c : ErrCode) (i : Nat) :
    (s.raise c i).warn = s.warn := rfl

@[simp] theorem State.raise_cnt (s : State) (c : ErrCode) (i : Nat) :
    (s.raise c i).cnt = s.cnt := rfl

@[simp] theorem State.raise_src (s : State) (c : ErrCode) (i : Nat) :
    (s.raise c i).src = s.src := rfl

@[simp] theorem State.raise_hostQ (s : State) (c : ErrCode) (i : Nat) :
    (s.raise c i).hostQ = s.hostQ := rfl

@[simp] theorem State.raise_sinkRoom (s : State) (c : ErrCode) (i : Nat) :
    (s.raise c i).sinkRoom = s.sinkRoom := rfl

@[simp] theorem State.raise_out (s : State) (c : ErrCode) (i : Nat) :
    (s.raise c i).out = s.out := rfl

/-- What `raise` saves (60_exceptions.md R351). -/
@[simp] theorem State.raise_err (s : State) (c : ErrCode) (i : Nat) :
    (s.raise c i).err =
      { cls := c.cls, code := BitVec.ofNat 16 c.number, index := BitVec.ofNat 32 i,
        packet := BitVec.ofNat 32 s.packetNo, page := BitVec.ofNat 32 s.cnt.pagesAccepted } := rfl

/-- After `raise` the host sees the registers as they stand. -/
@[simp] theorem State.raise_view (s : State) (c : ErrCode) (i : Nat) : (s.raise c i).view = (s.raise c i).mirror := rfl

@[simp] theorem softReset_params (s : State) : (softReset s).params = s.params := rfl

@[simp] theorem softReset_phase (s : State) : (softReset s).phase = State.reset.phase := rfl

@[simp] theorem softReset_seq (s : State) : (softReset s).seq = State.reset.seq := rfl

@[simp] theorem softReset_srcPos (s : State) : (softReset s).srcPos = State.reset.srcPos := rfl

@[simp] theorem softReset_pageValid (s : State) : (softReset s).pageValid = State.reset.pageValid := rfl

@[simp] theorem softReset_segCursor (s : State) : (softReset s).segCursor = State.reset.segCursor := rfl

@[simp] theorem softReset_payCursor (s : State) : (softReset s).payCursor = State.reset.payCursor := rfl

@[simp] theorem softReset_pktBitpos (s : State) : (softReset s).pktBitpos = State.reset.pktBitpos := rfl

@[simp] theorem softReset_packetNo (s : State) : (softReset s).packetNo = State.reset.packetNo := rfl

@[simp] theorem softReset_pg (s : State) : (softReset s).pg = State.reset.pg := rfl

@[simp] theorem softReset_pkt (s : State) : (softReset s).pkt = State.reset.pkt := rfl

@[simp] theorem softReset_pktContinuing (s : State) : (softReset s).pktContinuing = State.reset.pktContinuing := rfl

@[simp] theorem softReset_noResidue (s : State) : (softReset s).noResidue = State.reset.noResidue := rfl

@[simp] theorem softReset_floorUnused (s : State) : (softReset s).floorUnused = State.reset.floorUnused := rfl

@[simp] theorem softReset_floorUsed (s : State) : (softReset s).floorUsed = State.reset.floorUsed := rfl

@[simp] theorem softReset_cfg (s : State) : (softReset s).cfg = State.reset.cfg := rfl

@[simp] theorem softReset_nCodebooks (s : State) : (softReset s).nCodebooks = State.reset.nCodebooks := rfl

@[simp] theorem softReset_nFloors (s : State) : (softReset s).nFloors = State.reset.nFloors := rfl

@[simp] theorem softReset_nResidues (s : State) : (softReset s).nResidues = State.reset.nResidues := rfl

@[simp] theorem softReset_nMappings (s : State) : (softReset s).nMappings = State.reset.nMappings := rfl

@[simp] theorem softReset_nModes (s : State) : (softReset s).nModes = State.reset.nModes := rfl

@[simp] theorem softReset_codebooks (s : State) : (softReset s).codebooks = State.reset.codebooks := rfl

@[simp] theorem softReset_floors (s : State) : (softReset s).floors = State.reset.floors := rfl

@[simp] theorem softReset_residues (s : State) : (softReset s).residues = State.reset.residues := rfl

@[simp] theorem softReset_mappings (s : State) : (softReset s).mappings = State.reset.mappings := rfl

@[simp] theorem softReset_modes (s : State) : (softReset s).modes = State.reset.modes := rfl

@[simp] theorem softReset_frame (s : State) : (softReset s).frame = State.reset.frame := rfl

@[simp] theorem softReset_carry (s : State) : (softReset s).carry = State.reset.carry := rfl

@[simp] theorem softReset_prevN (s : State) : (softReset s).prevN = State.reset.prevN := rfl

@[simp] theorem softReset_err (s : State) : (softReset s).err = State.reset.err := rfl

@[simp] theorem softReset_warn (s : State) : (softReset s).warn = State.reset.warn := rfl

@[simp] theorem softReset_cnt (s : State) : (softReset s).cnt = State.reset.cnt := rfl

@[simp] theorem softReset_view (s : State) : (softReset s).view = State.reset.view := rfl

@[simp] theorem softReset_src (s : State) : (softReset s).src = s.src := rfl

@[simp] theorem softReset_hostQ (s : State) : (softReset s).hostQ = s.hostQ := rfl

@[simp] theorem softReset_sinkRoom (s : State) : (softReset s).sinkRoom = s.sinkRoom := rfl

@[simp] theorem softReset_out (s : State) : (softReset s).out = s.out := rfl

@[simp] theorem acceptPage_params (s : State) : (acceptPage s).params = s.params := rfl

@[simp] theorem acceptPage_phase (s : State) : (acceptPage s).phase = s.phase := rfl

@[simp] theorem acceptPage_seq (s : State) : (acceptPage s).seq = s.seq := rfl

@[simp] theorem acceptPage_srcPos (s : State) : (acceptPage s).srcPos = s.srcPos := rfl

@[simp] theorem acceptPage_pageValid (s : State) : (acceptPage s).pageValid = true := rfl

@[simp] theorem acceptPage_segCursor (s : State) : (acceptPage s).segCursor = 0 := rfl

@[simp] theorem acceptPage_payCursor (s : State) : (acceptPage s).payCursor = 0 := rfl

@[simp] theorem acceptPage_pktBitpos (s : State) : (acceptPage s).pktBitpos = s.pktBitpos := rfl

@[simp] theorem acceptPage_packetNo (s : State) : (acceptPage s).packetNo = s.packetNo := rfl

@[simp] theorem acceptPage_pg (s : State) : (acceptPage s).pg = s.pg := rfl

@[simp] theorem acceptPage_pkt (s : State) : (acceptPage s).pkt = s.pkt := rfl

@[simp] theorem acceptPage_pktContinuing (s : State) : (acceptPage s).pktContinuing = s.pktContinuing := rfl

@[simp] theorem acceptPage_noResidue (s : State) : (acceptPage s).noResidue = s.noResidue := rfl

@[simp] theorem acceptPage_floorUnused (s : State) : (acceptPage s).floorUnused = s.floorUnused := rfl

@[simp] theorem acceptPage_floorUsed (s : State) : (acceptPage s).floorUsed = s.floorUsed := rfl

@[simp] theorem acceptPage_cfg (s : State) : (acceptPage s).cfg = s.cfg := rfl

@[simp] theorem acceptPage_nCodebooks (s : State) : (acceptPage s).nCodebooks = s.nCodebooks := rfl

@[simp] theorem acceptPage_nFloors (s : State) : (acceptPage s).nFloors = s.nFloors := rfl

@[simp] theorem acceptPage_nResidues (s : State) : (acceptPage s).nResidues = s.nResidues := rfl

@[simp] theorem acceptPage_nMappings (s : State) : (acceptPage s).nMappings = s.nMappings := rfl

@[simp] theorem acceptPage_nModes (s : State) : (acceptPage s).nModes = s.nModes := rfl

@[simp] theorem acceptPage_codebooks (s : State) : (acceptPage s).codebooks = s.codebooks := rfl

@[simp] theorem acceptPage_floors (s : State) : (acceptPage s).floors = s.floors := rfl

@[simp] theorem acceptPage_residues (s : State) : (acceptPage s).residues = s.residues := rfl

@[simp] theorem acceptPage_mappings (s : State) : (acceptPage s).mappings = s.mappings := rfl

@[simp] theorem acceptPage_modes (s : State) : (acceptPage s).modes = s.modes := rfl

@[simp] theorem acceptPage_frame (s : State) : (acceptPage s).frame = s.frame := rfl

@[simp] theorem acceptPage_carry (s : State) : (acceptPage s).carry = s.carry := rfl

@[simp] theorem acceptPage_prevN (s : State) : (acceptPage s).prevN = s.prevN := rfl

@[simp] theorem acceptPage_err (s : State) : (acceptPage s).err = s.err := rfl

@[simp] theorem acceptPage_warn (s : State) : (acceptPage s).warn = s.warn := rfl

@[simp] theorem acceptPage_view (s : State) : (acceptPage s).view = s.view := rfl

@[simp] theorem acceptPage_src (s : State) : (acceptPage s).src = s.src := rfl

@[simp] theorem acceptPage_hostQ (s : State) : (acceptPage s).hostQ = s.hostQ := rfl

@[simp] theorem acceptPage_sinkRoom (s : State) : (acceptPage s).sinkRoom = s.sinkRoom := rfl

@[simp] theorem acceptPage_out (s : State) : (acceptPage s).out = s.out := rfl

/-- What acceptance writes into the counters (40_ogg_demuxer.md R126). -/
@[simp] theorem acceptPage_cnt (s : State) :
    (acceptPage s).cnt =
      { s.cnt with
        pagesAccepted := satAdd 32 s.cnt.pagesAccepted 1
        lastGranule := s.pg.granule
        lastSerial := s.pg.serial
        lastSequence := s.pg.sequence } := rfl

end Sys2Proof.Machine
end

