-- ==== Sys2Proof/Laws/Reader.lean ====
section
/-! SUPPORT. What the bit reader can do (41_bitreader.md): every read keeps the packet, never moves the cursor back and
never past the packet's end, and only adds warnings. `Moves` says that of any read, `Reaches` also that no read was
clamped. -/

namespace Sys2Proof.Machine

open Sys2Proof

/-- A reader after some reads. -/
structure Reader.Moves (r r' : Reader) : Prop where
  bytes : r'.bytes = r.bytes
  le : r.pos ≤ r'.pos
  bound : r.pos ≤ 8 * r.bytes.length → r'.pos ≤ 8 * r.bytes.length
  exhausted : r.exhausted ≤ r'.exhausted
  clamped : r.clamped ≤ r'.clamped

/-- A reader after some reads of at most 32 bits each. -/
structure Reader.Reaches (r r' : Reader) : Prop extends Reader.Moves r r' where
  noClamp : r'.clamped = r.clamped

theorem Reader.Moves.refl (r : Reader) : r.Moves r := ⟨rfl, le_refl _, id, le_refl _, le_refl _⟩

theorem Reader.Moves.trans {a b c : Reader} (h : a.Moves b) (k : b.Moves c) : a.Moves c where
  bytes := k.bytes.trans h.bytes
  le := h.le.trans k.le
  bound := fun x => by
    have := k.bound (by rw [h.bytes]; exact h.bound x)
    rwa [h.bytes] at this
  exhausted := h.exhausted.trans k.exhausted
  clamped := h.clamped.trans k.clamped

theorem Reader.Reaches.refl (r : Reader) : r.Reaches r := ⟨Moves.refl r, rfl⟩

theorem Reader.Reaches.trans {a b c : Reader} (h : a.Reaches b) (k : b.Reaches c) : a.Reaches c :=
  ⟨h.toMoves.trans k.toMoves, k.noClamp.trans h.noClamp⟩

/-! ### The reads -/

@[simp] theorem Reader.skip_bytes (n : Nat) (r : Reader) : (r.skip n).bytes = r.bytes := rfl

theorem Reader.skip_pos (n : Nat) (r : Reader) : (r.skip n).pos = r.pos + min (min n 32) r.avail := rfl

theorem Reader.skip_exhausted (n : Nat) (r : Reader) :
    (r.skip n).exhausted = r.exhausted + (if r.avail < min n 32 then 1 else 0) := rfl

theorem Reader.skip_clamped (n : Nat) (r : Reader) :
    (r.skip n).clamped = r.clamped + (if 32 < n then 1 else 0) := rfl

theorem Reader.readBits_fst (n : Nat) (r : Reader) :
    (r.readBits n).1 = packetField r.bytes (min n 32) r.pos := rfl

@[simp] theorem Reader.readBits_snd (n : Nat) (r : Reader) : (r.readBits n).2 = r.skip n := rfl

/-- A field that the packet holds moves the cursor by its width and warns of nothing. -/
theorem Reader.skip_of_fits {n : Nat} {r : Reader} (hn : n ≤ 32) (h : n ≤ r.avail) :
    r.skip n = { r with pos := r.pos + n } := by
  have h1 : min n 32 = n := by omega
  simp only [Reader.skip, Reader.readBits, h1]
  have h2 : min n r.avail = n := by omega
  have h3 : ¬ r.avail < n := by omega
  have h4 : ¬ 32 < n := by omega
  simp [h2, h3, h4]

theorem Reader.skip_moves (n : Nat) (r : Reader) : r.Moves (r.skip n) where
  bytes := rfl
  le := by rw [skip_pos]; omega
  bound := fun h => by rw [skip_pos]; unfold Reader.avail; omega
  exhausted := by rw [skip_exhausted]; omega
  clamped := by rw [skip_clamped]; omega

theorem Reader.skip_reaches {n : Nat} (h : n ≤ 32) (r : Reader) : r.Reaches (r.skip n) :=
  ⟨skip_moves n r, by rw [skip_clamped]; simp; omega⟩

@[simp] theorem Reader.skips_nil (r : Reader) : r.skips [] = r := rfl

@[simp] theorem Reader.skips_cons (w : Nat) (ws : List Nat) (r : Reader) : r.skips (w :: ws) = (r.skip w).skips ws := rfl

theorem Reader.skips_moves (ws : List Nat) : ∀ r : Reader, r.Moves (r.skips ws) := by
  induction ws with
  | nil => exact Moves.refl
  | cons w ws ih => exact fun r => (skip_moves w r).trans (ih _)

theorem Reader.skips_reaches {ws : List Nat} (h : ∀ w ∈ ws, w ≤ 32) : ∀ r : Reader, r.Reaches (r.skips ws) := by
  induction ws with
  | nil => exact Reaches.refl
  | cons w ws ih =>
    exact fun r => (skip_reaches (h w (by simp)) r).trans (ih (fun x hx => h x (by simp [hx])) _)

theorem Reader.skipEach_moves (w k : Nat) : ∀ r : Reader, r.Moves (r.skipEach w k) := by
  induction k with
  | zero => exact Moves.refl
  | succ k ih => exact fun r => (skip_moves w r).trans (ih _)

theorem Reader.skipEach_reaches {w : Nat} (h : w ≤ 32) (k : Nat) : ∀ r : Reader, r.Reaches (r.skipEach w k) := by
  induction k with
  | zero => exact Reaches.refl
  | succ k ih => exact fun r => (skip_reaches h r).trans (ih _)

theorem Reader.discard_reaches (w k : Nat) (r : Reader) : r.Reaches (r.discard w k) := by
  unfold Reader.discard
  dsimp only
  split
  · rename_i h
    refine ⟨⟨rfl, ?_, fun hb => ?_, le_refl _, le_refl _⟩, rfl⟩
    · exact Nat.le_add_right _ _
    · have : w * k ≤ r.avail := (Nat.mul_le_mul_left w h).trans (Nat.mul_div_le _ _)
      unfold Reader.avail at this
      show r.pos + w * k ≤ _
      omega
  · refine ⟨⟨rfl, ?_, fun hb => ?_, ?_, le_refl _⟩, rfl⟩
    · exact Nat.le_add_right _ _
    · show r.pos + r.avail ≤ _
      unfold Reader.avail
      omega
    · exact Nat.le_add_right _ _

/-! ### How far the reads go -/

/-- From `r` to `r'` fields of `n` bits in all have been read, none wider than 32 (41_bitreader.md R151, R154). -/
structure Reader.Reads (r r' : Reader) (n : Nat) : Prop where
  bytes : r'.bytes = r.bytes
  pos : r'.pos = min (r.pos + n) (8 * r.bytes.length)
  fits : r.pos + n ≤ 8 * r.bytes.length → r' = { r with pos := r.pos + n }

theorem Reader.Reads.zero {r : Reader} (h : r.pos ≤ 8 * r.bytes.length) : r.Reads r 0 :=
  ⟨rfl, by omega, fun _ => rfl⟩

theorem Reader.Reads.trans {a b c : Reader} {m n : Nat} (h : a.Reads b m) (k : b.Reads c n) : a.Reads c (m + n) where
  bytes := k.bytes.trans h.bytes
  pos := by rw [k.pos, h.bytes, h.pos]; omega
  fits := fun x => by
    have hb := h.fits (by omega)
    subst hb
    have hc := k.fits (by show a.pos + m + n ≤ 8 * a.bytes.length; omega)
    rw [hc, Nat.add_assoc]

theorem Reader.Reads.bound {r r' : Reader} {n : Nat} (h : r.Reads r' n) : r'.pos ≤ 8 * r'.bytes.length := by
  rw [h.pos, h.bytes]
  exact Nat.min_le_right _ _

theorem Reader.reads_skip {w : Nat} {r : Reader} (hw : w ≤ 32) (h : r.pos ≤ 8 * r.bytes.length) :
    r.Reads (r.skip w) w where
  bytes := rfl
  pos := by rw [skip_pos]; unfold Reader.avail; omega
  fits := fun x => skip_of_fits hw (by unfold Reader.avail; omega)

theorem Reader.reads_skips {ws : List Nat} (hw : ∀ w ∈ ws, w ≤ 32) :
    ∀ {r : Reader}, r.pos ≤ 8 * r.bytes.length → r.Reads (r.skips ws) (total ws) := by
  induction ws with
  | nil => exact fun h => .zero h
  | cons w ws ih =>
    intro r h
    have h1 := reads_skip (hw w (by simp)) h
    exact h1.trans (ih (fun x hx => hw x (by simp [hx])) h1.bound)

theorem Reader.reads_skipEach {w : Nat} (hw : w ≤ 32) (k : Nat) :
    ∀ {r : Reader}, r.pos ≤ 8 * r.bytes.length → r.Reads (r.skipEach w k) (w * k) := by
  induction k with
  | zero => exact fun h => .zero h
  | succ k ih =>
    intro r h
    have h1 := reads_skip hw h
    have h2 := h1.trans (ih h1.bound)
    rwa [Nat.add_comm, ← Nat.mul_succ] at h2

theorem Reader.reads_discard {w k : Nat} {r : Reader} (hw : 1 ≤ w) (h : r.pos ≤ 8 * r.bytes.length) :
    r.Reads (r.discard w k) (w * k) := by
  have h1 := Nat.div_mul_le_self r.avail w
  have h3 := Nat.lt_mul_div_succ r.avail (show 0 < w by omega)
  unfold Reader.discard
  dsimp only
  split
  · rename_i hk
    have h2 : w * k ≤ r.avail := by
      have h2 := Nat.mul_le_mul_left w hk
      rw [Nat.mul_comm w (r.avail / w)] at h2
      omega
    refine ⟨rfl, ?_, fun _ => rfl⟩
    unfold Reader.avail at h2
    show r.pos + w * k = _
    omega
  · rename_i hk
    have h2 : r.avail < w * k := lt_of_lt_of_le h3 (Nat.mul_le_mul_left w (by omega))
    unfold Reader.avail at h2
    refine ⟨rfl, ?_, fun x => ?_⟩
    · show r.pos + r.avail = _
      unfold Reader.avail
      omega
    · omega

/-! ### Operations that answer a value -/

/-- The reader an answer carries was reached from `r`. -/
def Got.From {α : Type} (r : Reader) : Got α → Prop
  | .ok _ r' => r.Reaches r'
  | .bad _ _ r' => r.Reaches r'
  | .stuck _ => True

theorem Got.From.mono {α : Type} {a b : Reader} {g : Got α} (h : a.Reaches b) (k : g.From b) : g.From a := by
  cases g with
  | ok x r => exact h.trans k
  | bad c i r => exact h.trans k
  | stuck f => trivial

theorem Got.From.bind {α β : Type} {r : Reader} {g : Got α} {f : α → Reader → Got β} (h : g.From r)
    (k : ∀ a r', g = .ok a r' → (f a r').From r') : (g.bind f).From r := by
  cases g with
  | ok a r' => exact (k a r' rfl).mono h
  | bad c i r' => exact h
  | stuck e => trivial

/-- A bind that answers a value answered one at each half. -/
theorem Got.bind_ok {α β : Type} {g : Got α} {f : α → Reader → Got β} {b : β} {r : Reader} (h : g.bind f = .ok b r) :
    ∃ a r', g = .ok a r' ∧ f a r' = .ok b r := by
  cases g with
  | ok a r' => exact ⟨a, r', rfl, h⟩
  | bad c i r' => cases h
  | stuck e => cases h

/-- The end of an operation, case by case: the one way it can go on, abort or fault. -/
theorem Got.finish_cases {α : Type} (g : Got α) (s : State) (f : α → State → Host.Outcome State Fault Refusal) :
    (∃ a r, g = .ok a r ∧ g.finish s f = f a (s.withReader r))
      ∨ (∃ c i r, g = .bad c i r ∧ g.finish s f = .next ((s.withReader r).raise c i))
      ∨ (∃ e, g = .stuck e ∧ g.finish s f = .fault e) := by
  cases g with
  | ok a r => exact .inl ⟨a, r, rfl, rfl⟩
  | bad c i r => exact .inr (.inl ⟨c, i, r, rfl, rfl⟩)
  | stuck e => exact .inr (.inr ⟨e, rfl, rfl⟩)

/-! ### Configuration units -/

/-- The reader a unit under decode carries was reached from `r`. -/
def Part.From {α : Type} (r : Reader) (p : Part α) : Prop := r.Moves p.rd

theorem Part.From.next {α : Type} {r : Reader} {p : Part α} {f : Reader → α → Part α} (h : p.From r)
    (k : ∀ r' a, (f r' a).From r') : (p.next f).From r := by
  unfold Part.next
  split
  · exact h
  · exact Reader.Moves.trans h (k _ _)

theorem Part.From.field {α : Type} {r : Reader} {p : Part α} (h : p.From r) (w : Nat) (g : α → α)
    (c : Option ErrCode) : (p.field w g c).From r :=
  h.next fun r' _ => Reader.skip_moves w r'

theorem Part.From.foldl {α β : Type} {r : Reader} {f : Part α → β → Part α}
    (k : ∀ q b, Part.From r q → (f q b).From r) (l : List β) : ∀ p : Part α, p.From r → (l.foldl f p).From r := by
  induction l with
  | nil => exact fun p h => h
  | cons b l ih => exact fun p h => ih _ (k p b h)

/-- Once a check has failed, nothing more is read or written (60_exceptions.md R353). -/
@[simp] theorem Part.next_of_err {α : Type} {p : Part α} {c : ErrCode} (h : p.err = some c)
    (f : Reader → α → Part α) : p.next f = p := by
  unfold Part.next
  rw [h]

@[simp] theorem Part.next_of_none {α : Type} {p : Part α} (h : p.err = none) (f : Reader → α → Part α) :
    p.next f = f p.rd p.val := by
  unfold Part.next
  rw [h]

end Sys2Proof.Machine
end

