-- ==== Sys2Proof/Laws/Ops.lean ====
section
/-! SUPPORT. What each shared operation of Machine/Ops.lean, Ogg.lean, Synth.lean and HostPort.lean can answer. -/

namespace Sys2Proof.Machine

open Sys2Proof

/-! ### The abort and the ends -/

@[simp] theorem abort_eq (s : State) (c : ErrCode) (i : Nat) : abort s c i = .next (s.raise c i) := rfl

/-- An abort is in `ERROR`, with the cause's class and number, and changes nothing but the five error registers, the
phase, and what the host sees. -/
theorem raise_frame (s : State) (c : ErrCode) (i : Nat) :
    s.raise c i = { s with phase := .error, err := (s.raise c i).err, view := (s.raise c i).view } := rfl

theorem raise_isOf (s : State) (c : ErrCode) (i : Nat) : (s.raise c i).err.isOf c := ⟨rfl, rfl⟩

/-- Only an error has a class. -/
theorem ErrCode.cls_ne_none (c : ErrCode) : c.cls ≠ .none := by cases c <;> decide

/-- `complete_packet` answers a next state exactly while `PACKET_NO` has room, and then this one. -/
theorem completePacket_next {s t : State} :
    completePacket s = .next t ↔
      s.packetNo + 1 < 2 ^ 32 ∧
        t = { s with
          cnt := { s.cnt with packetsDone := satAdd 32 s.cnt.packetsDone 1 }
          packetNo := s.packetNo + 1
          seq := .boundary }.publish := by
  unfold completePacket
  split
  · rename_i h
    exact ⟨fun x => (by cases x), fun x => absurd x.1 (by omega)⟩
  · rename_i h
    constructor
    · intro x
      exact ⟨by omega, (Host.Outcome.next.inj x).symm⟩
    · rintro ⟨-, rfl⟩
      rfl

/-- `end_of_stream` always answers a next state: `DONE`, or the abort of incomplete headers. -/
theorem endOfStream_cases (s : State) :
    (s.phase = .audio ∧ endOfStream s = .next { s with phase := .done, seq := .boundary }.publish)
      ∨ (s.phase ≠ .audio ∧ endOfStream s = .next (s.raise .streamTruncated s.packetNo)) := by
  unfold endOfStream
  split
  · exact .inl ⟨‹_›, rfl⟩
  · exact .inr ⟨‹_›, rfl⟩

/-- A take answers what follows it exactly while `SRC_POS` has room. -/
theorem takeThen_next {k : Nat} {s t : State} {f : State → Host.Outcome State Fault Refusal} :
    takeThen k s f = .next t ↔ s.srcPos + k < 2 ^ 64 ∧ f (s.takeSrc k) = .next t := by
  unfold takeThen
  split
  · exact ⟨fun x => (by cases x), fun x => absurd x.1 (by omega)⟩
  · exact ⟨fun x => ⟨by omega, x⟩, fun x => x.2⟩

/-! ### Buffers written in part -/

/-- An overwritten buffer: the new elements, then the old ones that were not written. -/
theorem overwrite_getElem? {α : Type} (new old : List α) (k : Nat) :
    (overwrite new old)[k]? = if k < new.length then new[k]? else old[k]? := by
  unfold overwrite
  rw [List.getElem?_append]
  split
  · rfl
  · rw [List.getElem?_drop]
    congr 1
    omega

theorem overwrite_length {α : Type} (new old : List α) : (overwrite new old).length = max new.length old.length := by
  simp only [overwrite, List.length_append, List.length_drop]
  omega

/-! ### Saturating counters -/

theorem satAdd_lt (w a b : Nat) : satAdd w a b < 2 ^ w := by
  have : 0 < 2 ^ w := Nat.two_pow_pos w
  unfold satAdd
  omega

theorem satAdd_of_lt {w a b : Nat} (h : a + b < 2 ^ w) : satAdd w a b = a + b := by
  unfold satAdd
  omega

theorem le_satAdd {w a : Nat} (b : Nat) (h : a < 2 ^ w) : a ≤ satAdd w a b := by
  unfold satAdd
  omega

/-- The warning record after some warnings, none of them when there are none. -/
theorem WarnRec.add_zero {w : WarnRec} (he : w.exhausted < 2 ^ 32) (hc : w.clamp < 2 ^ 32) : w.add 0 0 = w := by
  cases w with
  | mk any e c =>
    have h1 : satAdd 32 e 0 = e := satAdd_of_lt he
    have h2 : satAdd 32 c 0 = c := satAdd_of_lt hc
    simp [WarnRec.add, h1, h2]

theorem WarnRec.add_any {w : WarnRec} (e c : Nat) (h : w.any = decide (0 < w.exhausted ∨ 0 < w.clamp)) :
    (w.add e c).any = decide (0 < (w.add e c).exhausted ∨ 0 < (w.add e c).clamp) := by
  simp only [WarnRec.add, h, satAdd]
  rw [Bool.eq_iff_iff]
  simp only [Bool.or_eq_true, decide_eq_true_eq]
  omega

/-- No field read: the reader as it was. -/
theorem Reader.after_nil {r : Reader} (h : r.pos ≤ 8 * r.bytes.length) : r.after [] = r := by
  cases r
  simp only [Reader.after, total, shortReads, Reader.mk.injEq, true_and, and_true] at h ⊢
  omega

/-- One field, then the others (41_bitreader.md R154). -/
theorem Reader.after_skip {w : Nat} {r : Reader} (hw : w ≤ 32) (h : r.pos ≤ 8 * r.bytes.length) (ws : List Nat) :
    (r.skip w).after ws = r.after (w :: ws) := by
  have hm : min w 32 = w := Nat.min_eq_left hw
  have hc : ¬ 32 < w := by omega
  cases r with
  | mk bytes pos e c =>
    simp only [Reader.skip, Reader.readBits, Reader.after, Reader.avail, hm, hc, if_false, Nat.add_zero, total, shortReads,
      Reader.mk.injEq, true_and, and_true] at h ⊢
    have hl : 8 * bytes.length - (pos + min w (8 * bytes.length - pos)) = 8 * bytes.length - pos - w := by omega
    rw [hl]
    exact ⟨by omega, by omega⟩

theorem Reader.skips_eq_after {ws : List Nat} (hw : ∀ w ∈ ws, w ≤ 32) :
    ∀ {r : Reader}, r.pos ≤ 8 * r.bytes.length → r.skips ws = r.after ws := by
  induction ws with
  | nil => exact fun h => (Reader.after_nil h).symm
  | cons w ws ih =>
    intro r h
    rw [Reader.skips_cons, ih (fun x hx => hw x (by simp [hx])) (Reader.reads_skip (hw w (by simp)) h).bound,
      Reader.after_skip (hw w (by simp)) h]

theorem Reader.skipEach_eq_after {w : Nat} (hw : w ≤ 32) (k : Nat) :
    ∀ {r : Reader}, r.pos ≤ 8 * r.bytes.length → r.skipEach w k = r.after (List.replicate k w) := by
  induction k with
  | zero => exact fun h => (Reader.after_nil h).symm
  | succ k ih =>
    intro r h
    show (r.skip w).skipEach w k = _
    rw [ih (Reader.reads_skip hw h).bound, Reader.after_skip hw h, List.replicate_succ]

/-- Warnings without a clamp are what 60_exceptions.md R354 counts. -/
theorem WarnRec.add_eq_warned {w : WarnRec} (n : Nat) (hc : w.clamp < 2 ^ 32) : w.add n 0 = w.warned n := by
  have h : satAdd 32 w.clamp 0 = w.clamp := satAdd_of_lt hc
  unfold WarnRec.add WarnRec.warned
  rw [h]
  simp [satAdd]

/-- The state after fields of the widths `ws` is read by them, when the machine's invariant holds before
(41_bitreader.md R151, R154). -/
theorem readBy_of_after {s t : State} {r : Reader} {ws : List Nat} (h : s.Inv) (hr : r = s.reader.after ws)
    (hp : t.pktBitpos = r.pos) (hw : t.warn = s.warn.add r.exhausted r.clamped) : ReadBy s t ws := by
  subst hr
  refine ⟨hp, ?_⟩
  rw [hw]
  show s.warn.add (0 + shortReads (8 * s.pkt.length - s.pktBitpos) ws) 0 = _
  rw [Nat.zero_add]
  exact WarnRec.add_eq_warned _ h.clamp

/-- The state after fields of the widths `ws`, as the meanings make it. -/
theorem readBy_skips {s t : State} {ws : List Nat} (h : s.Inv) (hw : ∀ w ∈ ws, w ≤ 32)
    (hp : t.pktBitpos = (s.skips ws).pktBitpos) (hx : t.warn = (s.skips ws).warn) : ReadBy s t ws :=
  readBy_of_after h (Reader.skips_eq_after hw h.cursor) hp hx

/-- The reader at the cursor stands inside the packet. -/
theorem reader_bound {s : State} (h : s.Inv) : s.reader.pos ≤ 8 * s.reader.bytes.length := h.cursor

/-! ### The codebook under decode -/

/-- Writing the codebook under decode writes the last one of the table. -/
theorem modifyBook_last {s : State} {books : List Codebook} {b : Codebook} (h : s.codebooks = books ++ [b])
    (f : Codebook → Codebook) : s.modifyBook f = { s with codebooks := books ++ [f b] } := by
  have key : ∀ l : List Codebook, (l ++ [b]).modify l.length f = l ++ [f b] := by
    intro l
    induction l with
    | nil => rfl
    | cons x l ih => simpa using ih
  unfold State.modifyBook State.bookIndex modifyAt
  rw [h, List.length_append, List.length_singleton, Nat.add_sub_cancel, key]

/-- The codebook under decode is the last one of the table. -/
theorem book_last {s : State} {books : List Codebook} {b : Codebook} (h : s.codebooks = books ++ [b]) :
    s.book = some b ∧ s.bookIndex = books.length := by
  unfold State.book State.bookIndex
  rw [h]
  simp

/-! ### Segments, emission, host writes -/

/-- One segment (40_ogg_demuxer.md R127): it is appended, or the packet buffer is full. -/
theorem takeSegment_next {s t : State} (h : takeSegment s = .next t) :
    ∃ l, s.pg.seg[s.segCursor]? = some l ∧
      ((s.params.maxPacketBytes < s.pkt.length + l.toNat ∧ t = { s with segCursor := s.segCursor + 1 }.raise .capacity 1)
        ∨ (s.pkt.length + l.toNat ≤ s.params.maxPacketBytes ∧
          t = { s with
            segCursor := s.segCursor + 1
            pkt := s.pkt ++ (s.pg.payload.drop s.payCursor).take l.toNat
            payCursor := s.payCursor + l.toNat
            pktContinuing := decide (l.toNat = 255)
            seq := if l.toNat = 255 then .assemble true else .packet })) := by
  unfold takeSegment at h
  split at h
  · cases h
  · rename_i l hl
    refine ⟨l, hl, ?_⟩
    simp only [abort_eq] at h
    split at h
    · exact .inl ⟨‹_›, (Host.Outcome.next.inj h).symm⟩
    · refine .inr ⟨by omega, ?_⟩
      rw [← Host.Outcome.next.inj h]
      by_cases h2 : l.toNat = 255 <;> simp [h2]

/-- Emission appends samples of `OUTBUF`, in order, and either stalls or completes the packet. -/
theorem emit_cases (k : Nat) (s : State) :
    ∃ m, m ≤ (s.frame.outbuf.drop k).length ∧
      ((m = (s.frame.outbuf.drop k).length ∧
        emit k s = frameDone { s with
          out := s.out ++ (s.frame.outbuf.drop k).take m, sinkRoom := s.sinkRoom.map (fun r => r - m) })
      ∨ (m < (s.frame.outbuf.drop k).length ∧
        emit k s = .next { s with
          out := s.out ++ (s.frame.outbuf.drop k).take m
          sinkRoom := s.sinkRoom.map (fun r => r - m)
          seq := .emit (k + m) })) := by
  refine ⟨sinkTakes s.sinkRoom (s.frame.outbuf.drop k).length, ?_, ?_⟩
  · unfold sinkTakes
    split <;> omega
  · have hle : sinkTakes s.sinkRoom (s.frame.outbuf.drop k).length ≤ (s.frame.outbuf.drop k).length := by
      unfold sinkTakes
      split <;> omega
    unfold emit
    by_cases h : sinkTakes s.sinkRoom (s.frame.outbuf.drop k).length = (s.frame.outbuf.drop k).length
    · exact .inl ⟨h, by simp only [h, if_true]⟩
    · exact .inr ⟨by omega, by simp only [h, if_false]⟩

/-- A `CTRL` write resets, starts, or does nothing. -/
theorem writeCtrl_cases (v : Word) (s : State) :
    (v.getLsbD 1 = true ∧ writeCtrl v s = softReset s)
      ∨ (v.getLsbD 1 = false ∧ v.getLsbD 0 = true ∧ s.phase = .idle
          ∧ writeCtrl v s = { s with phase := .hdrId, seq := .boundary }.publish)
      ∨ (v.getLsbD 1 = false ∧ (v.getLsbD 0 = true → s.phase ≠ .idle) ∧ writeCtrl v s = s) := by
  unfold writeCtrl startCore
  cases h1 : v.getLsbD 1 <;> cases h0 : v.getLsbD 0 <;> by_cases hp : s.phase = .idle <;> simp [hp]

/-- A host write answers a next state exactly when it is aligned; then it is a `CTRL` write or changes nothing. -/
theorem hostWrite_next {w : HostWrite} {s t : State} (h : hostWrite w s = .next t) :
    w.addr % 4 = 0 ∧ (w.addr = s.params.regsBase ∧ t = writeCtrl w.value s ∨ w.addr ≠ s.params.regsBase ∧ t = s) := by
  unfold hostWrite at h
  split at h
  · cases h
  · split at h
    · exact ⟨by omega, .inl ⟨‹_›, (Host.Outcome.next.inj h).symm⟩⟩
    · exact ⟨by omega, .inr ⟨‹_›, (Host.Outcome.next.inj h).symm⟩⟩

end Sys2Proof.Machine
end

