-- ==== Sys2Proof/Laws/Payload.lean ====
section
/-! SUPPORT. The operations on codewords, vectors, floors and residues reach the readers they answer with, and the lengths of
what they answer. -/

namespace Sys2Proof.Machine

open Sys2Proof

/-! ### Codewords and vectors (43_codebook.md) -/

theorem HuffTree.walk_from (b : Nat) (t : HuffTree) : ∀ r : Reader, (t.walk b r).From r := by
  induction t with
  | absent => exact fun r => Reader.Reaches.refl r
  | leaf e => exact fun r => Reader.Reaches.refl r
  | node l g ihl ihg =>
    intro r
    have h : r.Reaches (r.skip 1) := Reader.skip_reaches (by decide) r
    simp only [HuffTree.walk]
    split
    · exact (ihg _).mono h
    · exact (ihl _).mono h

/-- In a complete tree every walk ends at a leaf. -/
theorem HuffTree.walk_complete (b : Nat) (t : HuffTree) (h : t.complete = true) :
    ∀ r : Reader, ∃ e r', t.walk b r = .ok e r' ∧ e ∈ t.leaves := by
  induction t with
  | absent => cases h
  | leaf e => exact fun r => ⟨e, r, rfl, List.mem_singleton.2 rfl⟩
  | node l g ihl ihg =>
    have hh : l.complete = true ∧ g.complete = true := by simpa [HuffTree.complete] using h
    intro r
    simp only [HuffTree.walk, HuffTree.leaves]
    split
    · obtain ⟨e, r', h1, h2⟩ := ihg hh.2 (r.skip 1)
      exact ⟨e, r', h1, List.mem_append_right _ h2⟩
    · obtain ⟨e, r', h1, h2⟩ := ihl hh.1 (r.skip 1)
      exact ⟨e, r', h1, List.mem_append_left _ h2⟩

theorem huffDecode_from (books : List Codebook) (b : Nat) (r : Reader) : (huffDecode books b r).From r := by
  unfold huffDecode
  split
  · trivial
  · exact HuffTree.walk_from _ _ _

theorem vqCheck_from (books : List Codebook) (b : Nat) (r : Reader) : (vqCheck books b r).From r := by
  unfold vqCheck
  split
  · trivial
  · split
    · exact Reader.Reaches.refl r
    · split
      · exact Reader.Reaches.refl r
      · exact Reader.Reaches.refl r

/-- A book that passes the checks is the one named, with a vector to give. -/
theorem vqCheck_ok {books : List Codebook} {b : Nat} {r r' : Reader} {book : Codebook}
    (h : vqCheck books b r = .ok book r') :
    books[b]? = some book ∧ book.lookup ≠ 0 ∧ book.dims ≠ 0 ∧ r' = r := by
  unfold vqCheck at h
  split at h
  · cases h
  · split at h
    · cases h
    · split at h
      · cases h
      · cases h
        exact ⟨‹_›, ‹_›, ‹_›, rfl⟩

theorem vqVectorFrom_length (book : Codebook) (e : Nat) :
    ∀ (k i : Nat) (last : F32) (v : List F32), vqVectorFrom book e k i last = some v → v.length = k := by
  intro k
  induction k with
  | zero =>
    intro i last v h
    cases h
    rfl
  | succ k ih =>
    intro i last v h
    simp only [vqVectorFrom] at h
    split at h
    · cases h
    · obtain ⟨vs, h1, rfl⟩ := Option.map_eq_some_iff.1 h
      simp [ih _ _ _ h1]

theorem vqDecode_from (books : List Codebook) (b : Nat) (r : Reader) : (vqDecode books b r).From r := by
  refine (vqCheck_from books b r).bind fun book r1 _ => (huffDecode_from books b r1).bind fun e r2 _ => ?_
  split
  · trivial
  · exact Reader.Reaches.refl r2

/-- A decoded vector is as long as its book's dimension (43_codebook.md R226). -/
theorem vqDecode_length {books : List Codebook} {b : Nat} {r r' : Reader} {v : List F32}
    (h : vqDecode books b r = .ok v r') : ∃ book, books[b]? = some book ∧ v.length = book.dims ∧ book.dims ≠ 0 := by
  obtain ⟨book, r1, h1, h⟩ := Got.bind_ok h
  obtain ⟨e, r2, _, h⟩ := Got.bind_ok h
  obtain ⟨hb, _, hd, _⟩ := vqCheck_ok h1
  split at h
  · cases h
  · rename_i w hw
    cases h
    exact ⟨book, hb, vqVectorFrom_length book e _ _ _ _ hw, hd⟩

/-! ### Floor payload (44_floor1.md R257) -/

theorem floorSlots_from (books : List Codebook) (c : FloorClass) :
    ∀ (k cval : Nat) (r : Reader), (floorSlots books c k cval r).From r := by
  intro k
  induction k with
  | zero => exact fun _ r => Reader.Reaches.refl r
  | succ k ih =>
    intro cval r
    simp only [floorSlots]
    split
    · trivial
    · exact (ih _ r).bind fun ys r' _ => Reader.Reaches.refl r'
    · exact (huffDecode_from books _ r).bind fun y r' _ => (ih _ r').bind fun ys r'' _ => Reader.Reaches.refl r''

theorem floorClassValue_from (books : List Codebook) (c : FloorClass) (r : Reader) :
    (floorClassValue books c r).From r := by
  unfold floorClassValue
  split
  · exact Reader.Reaches.refl r
  · split
    · trivial
    · exact huffDecode_from books _ r

theorem floorPartitions_from (books : List Codebook) (f : FloorConfig) :
    ∀ (cs : List Nat) (r : Reader), (floorPartitions books f cs r).From r := by
  intro cs
  induction cs with
  | nil => exact fun r => Reader.Reaches.refl r
  | cons c cs ih =>
    intro r
    simp only [floorPartitions]
    split
    · trivial
    · exact (floorClassValue_from books _ r).bind fun cval r1 _ =>
        (floorSlots_from books _ _ cval r1).bind fun ys r2 _ =>
          (ih r2).bind fun more r3 _ => Reader.Reaches.refl r3

/-! ### Residue payload (45_residue.md R284 to R289) -/

theorem addAt_length {v w : List F32} {i : Nat} {x : F32} (h : addAt v i x = some w) : w.length = v.length := by
  unfold addAt at h
  split at h
  · cases h
  · cases h
    simp

theorem addStrided_length (step : Nat) :
    ∀ (e : List F32) (idx : Nat) (v w : List F32), addStrided step e idx v = some w → w.length = v.length := by
  intro e
  induction e with
  | nil =>
    intro idx v w h
    cases h
    rfl
  | cons x xs ih =>
    intro idx v w h
    simp only [addStrided] at h
    split at h
    · cases h
    · rename_i v' hv
      exact (ih _ _ _ h).trans (addAt_length hv)

theorem addVector_from (res step : Nat) (e : List F32) (idx : Nat) (v : List F32) (r : Reader) :
    (addVector res step e idx v r).From r := by
  unfold addVector
  split
  · exact Reader.Reaches.refl r
  · exact Reader.Reaches.refl r

theorem partition0Loop_from (books : List Codebook) (res book step : Nat) :
    ∀ (k idx : Nat) (v : List F32) (r : Reader), (partition0Loop books res book step k idx v r).From r := by
  intro k
  induction k with
  | zero => exact fun _ _ r => Reader.Reaches.refl r
  | succ k ih =>
    intro idx v r
    exact (vqDecode_from books book r).bind fun e r1 _ =>
      (addVector_from res step e idx v r1).bind fun v2 r2 _ => ih _ v2 r2

theorem partition1Loop_from (books : List Codebook) (res book off psize : Nat) :
    ∀ (fuel i : Nat) (v : List F32) (r : Reader), (partition1Loop books res book off psize fuel i v r).From r := by
  intro fuel
  induction fuel with
  | zero => exact fun _ _ r => Reader.Reaches.refl r
  | succ fuel ih =>
    intro i v r
    simp only [partition1Loop]
    split
    · exact Reader.Reaches.refl r
    · exact (vqDecode_from books book r).bind fun e r1 _ =>
        (addVector_from res 1 e _ v r1).bind fun v2 r2 _ => ih _ v2 r2

theorem partition_from (t : ResType) (books : List Codebook) (res book off psize : Nat) (v : List F32) (r : Reader) :
    (partition t books res book off psize v r).From r := by
  have h0 : (partition0 books res book off psize v r).From r :=
    (vqCheck_from books book r).bind fun b r1 _ => partition0Loop_from books res book _ _ _ v r1
  have h1 : (partition1 books res book off psize v r).From r :=
    (vqCheck_from books book r).bind fun _ r1 _ => partition1Loop_from books res book off psize _ _ v r1
  cases t with
  | t0 => exact h0
  | t1 => exact h1
  | t2 => exact h1

theorem classify_from (books : List Codebook) (c : ResidueConfig) (cpc k : Nat) (w : ResWork) (r : Reader) :
    (classify books c cpc k w r).From r :=
  (huffDecode_from books _ r).bind fun _ r1 _ => Reader.Reaches.refl r1

theorem classifyAll_from (books : List Codebook) (c : ResidueConfig) (cpc : Nat) :
    ∀ (ks : List Nat) (w : ResWork) (r : Reader), (classifyAll books c cpc ks w r).From r := by
  intro ks
  induction ks with
  | nil => exact fun _ r => Reader.Reaches.refl r
  | cons k ks ih => exact fun w r => (classify_from books c cpc k w r).bind fun w1 r1 _ => ih w1 r1

theorem decodePartition_from (books : List Codebook) (res : Nat) (c : ResidueConfig) (pass pc k : Nat) (w : ResWork)
    (r : Reader) : (decodePartition books res c pass pc k w r).From r := by
  unfold decodePartition
  split
  · exact Reader.Reaches.refl r
  · exact (partition_from _ books res _ _ _ _ r).bind fun _ r1 _ => Reader.Reaches.refl r1
  · trivial

theorem decodePartitions_from (books : List Codebook) (res : Nat) (c : ResidueConfig) (pass pc : Nat) :
    ∀ (ks : List Nat) (w : ResWork) (r : Reader), (decodePartitions books res c pass pc ks w r).From r := by
  intro ks
  induction ks with
  | nil => exact fun _ r => Reader.Reaches.refl r
  | cons k ks ih => exact fun w r => (decodePartition_from books res c pass pc k w r).bind fun w1 r1 _ => ih w1 r1

theorem residuePass_from (books : List Codebook) (res : Nat) (c : ResidueConfig) (cpc : Nat) (act : List Nat)
    (pass : Nat) :
    ∀ (n pc : Nat) (w : ResWork) (r : Reader), (residuePass books res c cpc act pass n pc w r).From r := by
  intro n
  induction n with
  | zero => exact fun _ _ r => Reader.Reaches.refl r
  | succ n ih =>
    intro pc w r
    have h : Got.From r (if pass = 0 ∧ pc % cpc = 0 then classifyAll books c cpc act w r else .ok w r) := by
      split
      · exact classifyAll_from books c cpc act w r
      · exact Reader.Reaches.refl r
    exact h.bind fun w1 r1 _ => (decodePartitions_from books res c pass pc act w1 r1).bind fun w2 r2 _ => ih _ w2 r2

theorem residuePassesFrom_from (books : List Codebook) (res : Nat) (c : ResidueConfig) (cpc : Nat) (act : List Nat)
    (nparts : Nat) :
    ∀ (ps : List Nat) (w : ResWork) (r : Reader), (residuePassesFrom books res c cpc act nparts ps w r).From r := by
  intro ps
  induction ps with
  | nil => exact fun _ r => Reader.Reaches.refl r
  | cons p ps ih => exact fun w r => (residuePass_from books res c cpc act p nparts 0 w r).bind fun w1 r1 _ => ih w1 r1

theorem residuePasses_from (books : List Codebook) (res : Nat) (c : ResidueConfig) (act : List Nat) (nparts : Nat)
    (out : List (List F32)) (r : Reader) : (residuePasses books res c act nparts out r).From r := by
  unfold residuePasses
  split
  · trivial
  · split
    · exact Reader.Reaches.refl r
    · exact residuePassesFrom_from books res c _ act nparts _ _ r

theorem residueDecode_from (t : ResType) (books : List Codebook) (res : Nat) (rc : ResidueConfig) (h : Nat)
    (dnd : List Bool) (r : Reader) : (residueDecode t books res rc h dnd r).From r := by
  unfold residueDecode
  dsimp only
  split
  · exact Reader.Reaches.refl r
  · cases t with
    | t0 => exact residuePasses_from books res _ _ _ _ r
    | t1 => exact residuePasses_from books res _ _ _ _ r
    | t2 => exact (residuePasses_from books res _ _ _ _ r).bind fun _ r1 _ => Reader.Reaches.refl r1

/-! ### The floor vectors (44_floor1.md R266) -/

/-- The vector of a channel comes out exactly when it is silent, or its floor has one; then the state is this. -/
theorem channelVector_inl {ch : Nat} {s t : State} :
    channelVector ch s = .inl t ↔
      (s.floorUnused.getD ch false = true ∧ t = s.storeFloor ch (List.replicate (s.frame.n / 2) F32.zero))
        ∨ s.floorUnused.getD ch false = false ∧ ∃ f finalY used curve vec, s.channelFloor ch = some f
            ∧ floorVector s.params (s.frame.n / 2) f (s.frame.floorY.getD ch []) = .ok finalY used curve vec
            ∧ t = (s.storeCurve ch finalY used curve).storeFloor ch vec := by
  unfold channelVector
  cases hu : s.floorUnused.getD ch false with
  | true => simp [eq_comm]
  | false =>
    cases hf : s.channelFloor ch with
    | none => simp
    | some f =>
      cases hv : floorVector s.params (s.frame.n / 2) f (s.frame.floorY.getD ch []) with
      | ok a b c d =>
        simp only [Bool.false_eq_true, false_and, false_or, true_and, if_false, Option.some.injEq]
        constructor
        · intro h
          rw [hv] at h
          exact ⟨f, a, b, c, d, rfl, hv, (Sum.inl.inj h).symm⟩
        · rintro ⟨f', a', b', c', d', rfl, hv', rfl⟩
          obtain ⟨rfl, rfl, rfl, rfl⟩ := FloorResult.ok.inj (hv.symm.trans hv')
          rw [hv]
      | amplitude a b c => simp_all
      | stuck e => simp_all

/-- Else the step ends: with a fault, or with the abort of an amplitude after step 2 and the curve are stored. -/
theorem channelVector_inr {ch : Nat} {s : State} {o : Host.Outcome State Fault Refusal} (h : channelVector ch s = .inr o) :
    s.floorUnused.getD ch false = false ∧
      ((∃ e, o = .fault e) ∨ ∃ f finalY used curve, s.channelFloor ch = some f
        ∧ floorVector s.params (s.frame.n / 2) f (s.frame.floorY.getD ch []) = .amplitude finalY used curve
        ∧ o = .next ((s.storeCurve ch finalY used curve).raise .floorAmplitude ch)) := by
  unfold channelVector at h
  cases hu : s.floorUnused.getD ch false with
  | true => rw [hu] at h; cases h
  | false =>
    refine ⟨rfl, ?_⟩
    rw [hu] at h
    cases hf : s.channelFloor ch with
    | none => rw [hf] at h; exact .inl ⟨_, (Sum.inr.inj h).symm⟩
    | some f =>
      rw [hf] at h
      cases hv : floorVector s.params (s.frame.n / 2) f (s.frame.floorY.getD ch []) with
      | ok a b c d => simp only [hv] at h; cases h
      | amplitude a b c =>
        simp only [hv] at h
        exact .inr ⟨f, a, b, c, rfl, hv, (Sum.inr.inj h).symm⟩
      | stuck e => simp only [hv] at h; exact .inl ⟨_, (Sum.inr.inj h).symm⟩

end Sys2Proof.Machine
end

