-- ==== Sys2Proof/Laws/PerInstr.lean ====
section
/-! SUPPORT. Statements made once per instruction. `Selector`: the words of every instruction begin with the match value of its
row of spec/opcode_table.json, its free bits (the header type of a page, the block flag of a mode) as the instruction has them
(30_encoding.md R96). -/

namespace Sys2Proof.Laws.Selector

open Sys2Proof

/-- The selector of an instruction, as bits of the stream. -/
def bits : Instr → List Bool
  | .oggPage p => bitsOf 32 0x5367674F ++ bitsOf 8 0 ++ bitsOf 3 p.htype.toNat ++ bitsOf 5 0
  | .idHdr _ => bitsOf 56 0x736962726F7601
  | .commentHdr _ => bitsOf 56 0x736962726F7603
  | .setupHdr _ => bitsOf 56 0x736962726F7605
  | .codebook _ _ => bitsOf 24 0x564342
  | .cbLenDense _ => bitsOf 2 0
  | .cbLenSparse _ => bitsOf 2 2
  | .cbLenOrdered _ _ => bitsOf 1 1
  | .cbLookup0 => bitsOf 4 0
  | .cbLookup1 _ => bitsOf 4 1
  | .cbLookup2 _ => bitsOf 4 2
  | .timeEntry => bitsOf 16 0
  | .floor1 _ => bitsOf 16 1
  | .res0 _ => bitsOf 16 0
  | .res1 _ => bitsOf 16 1
  | .res2 _ => bitsOf 16 2
  | .map0 _ => bitsOf 16 0
  | .mode blockflag _ => blockflag :: bitsOf 32 0
  | .audioPacket _ => bitsOf 1 0
  | .windowFlags _ _ => []
  | .floor1PayloadUnused => bitsOf 1 0
  | .floor1PayloadPresent _ _ => bitsOf 1 1
  | .res0Payload => []
  | .res1Payload => []
  | .res2Payload => []

/-- The words of an instruction begin with its selector, in every context. -/
def Statement (i : Instr) : Prop := ∀ c : Ctx, bits i <+: encode c i

/-- The prefix of a header packet is the 56-bit value of 30_encoding.md R82. -/
theorem encPrefix_one : encPrefix 1 = bitsOf 56 0x736962726F7601 := by decide

/-- See `encPrefix_one`. -/
theorem encPrefix_three : encPrefix 3 = bitsOf 56 0x736962726F7603 := by decide

/-- See `encPrefix_one`. -/
theorem encPrefix_five : encPrefix 5 = bitsOf 56 0x736962726F7605 := by decide

/-- The six selector bytes of a page (30_encoding.md R80). -/
theorem page_bits (h : BitVec 3) :
    bitsOfBytes (leBytes 4 0x5367674F ++ [0] ++ [BitVec.ofNat 8 h.toNat]) =
      bitsOf 32 0x5367674F ++ bitsOf 8 0 ++ bitsOf 3 h.toNat ++ bitsOf 5 0 := by
  revert h
  decide

theorem oggPage (p : Page) : Statement (.oggPage p) := fun _ => by
  have h : encodePage p = (leBytes 4 0x5367674F ++ [0] ++ [BitVec.ofNat 8 p.htype.toNat]) ++ (leBytes 8 p.granule.toNat
      ++ leBytes 4 p.serial.toNat ++ leBytes 4 p.sequence.toNat ++ leBytes 4 p.crc.toNat
      ++ [BitVec.ofNat 8 p.segs.length] ++ p.segs ++ p.payload) := by
    simp only [encodePage, List.append_assoc]
  show bits (.oggPage p) <+: bitsOfBytes (encodePage p)
  rw [h, bitsOfBytes_append, page_bits]
  exact List.prefix_append _ _

theorem idHdr (f : IdFields) : Statement (.idHdr f) := fun _ => ⟨_, by rw [bits, ← encPrefix_one]; rfl⟩

theorem commentHdr (f : CommentFields) : Statement (.commentHdr f) := fun _ => ⟨_, by rw [bits, ← encPrefix_three]; rfl⟩

theorem setupHdr (n : BitVec 8) : Statement (.setupHdr n) := fun _ => ⟨_, by rw [bits, ← encPrefix_five]; rfl⟩

theorem codebook (dims : BitVec 16) (entries : BitVec 24) : Statement (.codebook dims entries) := fun _ => ⟨_, rfl⟩

theorem cbLenDense (lens : List (BitVec 5)) : Statement (.cbLenDense lens) := fun _ => ⟨_, rfl⟩

theorem cbLenSparse (lens : List (Option (BitVec 5))) : Statement (.cbLenSparse lens) := fun _ => ⟨_, rfl⟩

theorem cbLenOrdered (initM1 : BitVec 5) (counts : List Nat) : Statement (.cbLenOrdered initM1 counts) := fun _ => ⟨_, rfl⟩

theorem cbLookup0 : Statement (.cbLookup0) := fun _ => ⟨_, rfl⟩

theorem cbLookup1 (f : VqFields) : Statement (.cbLookup1 f) := fun _ => ⟨_, rfl⟩

theorem cbLookup2 (f : VqFields) : Statement (.cbLookup2 f) := fun _ => ⟨_, rfl⟩

theorem timeEntry : Statement (.timeEntry) := fun _ => ⟨_, rfl⟩

theorem floor1 (f : FloorFields) : Statement (.floor1 f) := fun _ => ⟨_, rfl⟩

theorem res0 (f : ResidueFields) : Statement (.res0 f) := fun _ => ⟨_, rfl⟩

theorem res1 (f : ResidueFields) : Statement (.res1 f) := fun _ => ⟨_, rfl⟩

theorem res2 (f : ResidueFields) : Statement (.res2 f) := fun _ => ⟨_, rfl⟩

theorem map0 (f : MapFields) : Statement (.map0 f) := fun _ => ⟨_, rfl⟩

theorem mode (blockflag : Bool) (mapping : BitVec 8) : Statement (.mode blockflag mapping) := fun _ => ⟨_, rfl⟩

theorem audioPacket (mode : Nat) : Statement (.audioPacket mode) := fun _ => ⟨_, rfl⟩

theorem windowFlags (prev next : Bool) : Statement (.windowFlags prev next) := fun _ => ⟨_, rfl⟩

theorem floor1PayloadUnused : Statement (.floor1PayloadUnused) := fun _ => ⟨_, rfl⟩

theorem floor1PayloadPresent (y0 y1 : Nat) : Statement (.floor1PayloadPresent y0 y1) := fun _ => ⟨_, rfl⟩

theorem res0Payload : Statement (.res0Payload) := fun _ => ⟨_, rfl⟩

theorem res1Payload : Statement (.res1Payload) := fun _ => ⟨_, rfl⟩

theorem res2Payload : Statement (.res2Payload) := fun _ => ⟨_, rfl⟩

end Sys2Proof.Laws.Selector
end

