-- ==== Sys2Proof/Laws/Step.lean ====
section
/-! SUPPORT. What `step` does, case by case: with no host write in turn, the act of the sequencer's place, or the decoded unit. -/

namespace Sys2Proof.Machine

open Sys2Proof

/-- With no host write waiting, a busy core does what `fetchCore` gives. -/
theorem step_busy {s : State} (hq : s.hostQ = []) (hb : s.phase.busy = true) :
    step s = (match fetchCore s with
      | .run i => exec i s
      | .act o => o) := by
  unfold step fetch fetchCoreOrRest
  rw [hq]
  cases fetchCore s <;> simp [hb]

/-- A core in `IDLE`, `DONE` or `ERROR` takes no step (42_headers.md R170). -/
theorem step_rest {s : State} (hq : s.hostQ = []) (hb : s.phase.busy = false) : step s = .next s := by
  unfold step fetch fetchCoreOrRest
  rw [hq]
  simp [hb]

/-- A unit that decodes is run (30_encoding.md R96). -/
theorem fetchUnit_ok {s : State} {c : Ctx} {i : Instr} {rest : List Bool} (hc : s.ctx = some c)
    (hd : decode c s.reader.rest = .ok i rest) : fetchUnit s = .run i := by
  unfold fetchUnit
  rw [hc]
  simp only [hd]

/-- An illegal selector is taken as the abort of its cause (30_encoding.md R97). -/
theorem fetchUnit_illegal {s : State} {c : Ctx} {e : ErrCode} {k h : Nat} {ws : List Nat} (hc : s.ctx = some c)
    (hd : decode c s.reader.rest = .illegal e k ws h) : fetchUnit s = .act (takeIllegal e k ws h s) := by
  unfold fetchUnit
  rw [hc]
  simp only [hd]

/-- Where a unit has a context, the next act is that unit. -/
theorem fetchCore_of_ctx {s : State} {c : Ctx} (hc : s.ctx = some c) : fetchCore s = fetchUnit s := by
  unfold State.ctx at hc
  unfold fetchCore
  split at hc <;> first | (cases hc; done) | rfl | (rename_i h; simp only [h])

/-- A host write whose turn it is acts. -/
theorem step_host {s : State} {w : HostWrite} {rest : List HostWrite} (hq : s.hostQ = w :: rest)
    (ht : s.hostTurn = true) : step s = takeHostWrite w rest s := by
  unfold step fetch
  rw [hq]
  simp only [ht, if_true]

end Sys2Proof.Machine
end

