-- ==== Sys2Proof/Tests/Slice0.lean ====
section
/-! SUPPORT. Small tests with values from 95_test_vectors.md (each test names its vector) or worked out by hand from the rule it
names; ill-formed terms that the well-formedness checks refuse; one word per instruction written out from 30_encoding.md; and,
for every statement with hypotheses, a witness that meets them. -/

namespace Sys2Proof.Tests

open Sys2Proof Sys2Proof.Machine

-- One theorem at a time: the kernel's evaluations are otherwise queued, one waiting thread each.
set_option Elab.async false

/-! ### Helpers -/

/-- Bytes from numbers. -/
def hex (ns : List Nat) : List Byte := ns.map (BitVec.ofNat 8)

/-- Bits written out. -/
def bits (ns : List Nat) : List Bool := ns.map (fun n => n == 1)

/-- A small state: after reset, but at this phase and place, with this packet. -/
def placed (p : Phase) (q : Seq) (pkt : List Byte) : State := { State.reset with phase := p, seq := q, pkt := pkt }

/-- Whether an outcome is a next state with a property. -/
def nextIs (o : Host.Outcome State Fault Refusal) (p : State → Bool) : Bool :=
  match o with
  | .next t => p t
  | .fault _ => false
  | .refused _ => false

theorem of_nextIs {o : Host.Outcome State Fault Refusal} {p : State → Bool} (h : nextIs o p = true) :
    ∃ t, o = .next t ∧ p t = true := by
  cases o with
  | next t => exact ⟨t, rfl, h⟩
  | fault _ => cases h
  | refused _ => cases h

/-- Whether an outcome is the abort of a cause with an index. -/
def aborts (o : Host.Outcome State Fault Refusal) (c : ErrCode) (index : Nat) : Bool :=
  nextIs o (fun t => decide (t.phase = .error ∧ t.err.cls = c.cls ∧ t.err.code = BitVec.ofNat 16 c.number
    ∧ t.err.index = BitVec.ofNat 32 index))

/-- Whether bits decode to an instruction that takes `n` of them. -/
def decodesTo (c : Ctx) (bs : List Bool) (i : Instr) (n : Nat) : Bool :=
  match decode c bs with
  | .ok j rest => decide (j = i ∧ rest.length + n = bs.length)
  | .illegal _ _ _ _ => false

/-- The invariant, for a state that is not in `ERROR`, as a check. -/
def invCheck (s : State) : Bool :=
  decide (s.phase ≠ .error ∧ s.err = .clear) && decide (s.pktBitpos ≤ 8 * s.pkt.length)
    && decide (s.pkt.length ≤ s.params.maxPacketBytes) && decide (s.srcPos < 2 ^ 64)
    && decide (s.packetNo < 2 ^ 32 ∧ s.warn.exhausted < 2 ^ 32 ∧ s.warn.clamp < 2 ^ 32)
    && decide (s.cnt.pagesAccepted < 2 ^ 32 ∧ s.cnt.framesOut < 2 ^ 64)
    && decide (s.warn.any = decide (0 < s.warn.exhausted ∨ 0 < s.warn.clamp))
    && decide (s.cnt.packetsDone = s.packetNo)
    && decide (s.phase.busy = false ∨ s.seq = .boundary → s.view = s.mirror)
    && decide (s.phase.busy = true → s.seq.inPhase s.phase = true)
    && (!s.pageValid || decide (s.pg.seg.length = s.pg.nseg.toNat ∧ s.segCursor ≤ s.pg.nseg.toNat
        ∧ s.payCursor = total ((s.pg.seg.take s.segCursor).map BitVec.toNat)
        ∧ s.pg.payload.length = total (s.pg.seg.map BitVec.toNat)))
    && decide (s.phase.busy = true → s.seq.decoding = true → s.pktContinuing = false)
    && (match s.seq with
        | .assemble b => decide (s.phase.busy = true → s.pktContinuing = b)
        | _ => true)
    && decide (s.phase = .idle ∨ s.phase = .hdrId ∨ s.phase = .hdrComment ∨ s.phase = .hdrSetup →
        s.prevN = 0 ∧ s.carry = [])

theorem inv_of_check {s : State} (h : invCheck s = true) : s.Inv := by
  simp only [invCheck, Bool.and_eq_true, decide_eq_true_eq, Bool.or_eq_true, Bool.not_eq_true'] at h
  obtain ⟨⟨⟨⟨⟨⟨⟨⟨⟨⟨⟨⟨⟨h1, h2⟩, h3⟩, h4⟩, h5⟩, h6⟩, h7⟩, h8⟩, h9⟩, h10⟩, h11⟩, h12⟩, h13⟩, h14⟩ := h
  exact
    { noError := fun _ => h1.2
      errorCause := fun hp => absurd hp h1.1
      cursor := h2
      capacity := h3
      srcPos := h4
      packetNo := h5.1
      exhausted := h5.2.1
      clamp := h5.2.2
      pages := h6.1
      frames := h6.2
      warnAny := h7
      packets := h8
      view := h9
      place := h10
      page := fun _ hv => by
        rcases h11 with h | h
        · rw [h] at hv; cases hv
        · exact h
      continuing := h12
      started := fun b hb hs => by rw [hs] at h13; exact (of_decide_eq_true h13) hb
      carry := h14 }

/-- The identification packet of V-HDR-1. -/
def idPacket : List Byte :=
  hex [0x01, 0x76, 0x6F, 0x72, 0x62, 0x69, 0x73, 0, 0, 0, 0, 0x01, 0x44, 0xAC, 0, 0, 0, 0, 0, 0, 0, 0, 0, 0, 0, 0, 0, 0, 0x88, 0x01]

/-- Its fields (V-HDR-1). -/
def idFields : IdFields :=
  { version := 0, channels := 1, rate := 44100, brMax := 0, brNom := 0, brMin := 0, e0 := 8, e1 := 8, framing := true }

/-- Page 0 of program P1 (95_test_vectors.md, `PG0`). -/
def pageBytes : List Byte :=
  hex [0x4F, 0x67, 0x67, 0x53, 0, 2, 0, 0, 0, 0, 0, 0, 0, 0, 0x34, 0x12, 0, 0, 0, 0, 0, 0, 0xD6, 0x05, 0x9D, 0xA0, 1, 0x1E]
    ++ idPacket

/-- Its fields. -/
def page0 : Page :=
  { htype := 2, granule := 0, serial := 0x1234, sequence := 0, crc := 0xA09D05D6, segs := [0x1E], payload := idPacket }

/-- The setup packet `SU2` of 95_test_vectors.md. -/
def setupPacket : List Byte :=
  hex [0x05, 0x76, 0x6F, 0x72, 0x62, 0x69, 0x73, 0x01, 0x42, 0x43, 0x56, 0x01, 0x00, 0x02, 0x00, 0x00, 0x00, 0x00, 0x42, 0x43,
    0x56, 0x02, 0x00, 0x04, 0x00, 0x00, 0x84, 0x10, 0x42, 0x04, 0x00, 0x00, 0x8A, 0x07, 0x00, 0x00, 0x8A, 0x05, 0x04, 0x00]
    ++ hex [0x00, 0x80, 0x00, 0x00, 0x00, 0x02, 0x01, 0x00, 0x00, 0x00, 0x00, 0x80, 0x00, 0x00, 0x03, 0x00, 0x00, 0x00, 0x40,
      0x04, 0x00, 0x00, 0x00, 0x00, 0x00, 0x00, 0x00, 0x00, 0x00, 0x00, 0x00, 0x00, 0x08]

/-- The bits of `SU2` from a position on. -/
def setupFrom (n : Nat) : List Bool := (bitsOfBytes setupPacket).drop n

/-! ### Well-formedness: an ill-formed term for each check -/

/-- A page without segments. -/
def page1 : Page :=
  { htype := 0, granule := 0, serial := 0, sequence := 0, crc := 0, segs := [], payload := [] }

/-- A class of a floor, with subclass bits. -/
def classF : ClassFields := { dimM1 := 1, sub := 1, master := some 2, books := [1, 0] }

/-- A floor with one partition. -/
def floorF : FloorFields := { partClass := [0], classes := [classF], multM1 := 2, rangebits := 4, xs := [5, 9] }

/-- A residue with one classification and three pass books. -/
def residueF : ResidueFields :=
  { begin := 1, stop := 0x120, psizeM1 := 7, classificationsM1 := 0, classbook := 3
    cascade := [{ low := 5, high := some 1 }], books := [[4, 5, 6]] }

/-- A mapping of two submaps for two channels. -/
def mapF : MapFields :=
  { submapsM1 := some 1, coupling := some [(0, 1)], reserved := 0, mux := [0, 1]
    subs := [{ placeholder := 0, floor := 0, residue := 0 }, { placeholder := 7, floor := 1, residue := 2 }] }

/-- A lookup of type 1 for 4 entries of dimension 2. -/
def vqF : VqFields :=
  { minimum := 0xE2800001, delta := 0x62800001, valueBitsM1 := 1, seq := false, mult := [0, 2] }

/-- A comment header with one comment. -/
def commentF : CommentFields :=
  { vendorLen := 3, vendor := hex [0x61, 0x62, 0x63], count := 1
    comments := [{ len := 2, bytes := hex [0x78, 0x79] }], framing := true }

theorem test_wf_page :
    page0.wf = true ∧ { page0 with payload := [] }.wf = false
      ∧ { page1 with segs := List.replicate 256 0 }.wf = false ∧ { page1 with segs := List.replicate 255 0 }.wf = true := by
  decide +kernel

theorem test_wf_comment :
    commentF.wf = true ∧ { commentF with vendor := [] }.wf = false ∧ { commentF with count := 2 }.wf = false
      ∧ { commentF with comments := [{ len := 3, bytes := hex [0x78, 0x79] }] }.wf = false := by decide

theorem test_wf_lengths :
    Instr.wf (.lengths 2) (.cbLenDense [0]) = false ∧ Instr.wf (.lengths 2) (.cbLenSparse [none]) = false
      ∧ Instr.wf (.lengths 5) (.cbLenOrdered 1 [1, 4]) = true
      ∧ Instr.wf (.lengths 5) (.cbLenOrdered 1 [1, 8]) = false
      ∧ Instr.wf (.lengths 5) (.cbLenOrdered 1 [1, 4, 0]) = false
      ∧ Instr.wf (.lengths 5) (.cbLenOrdered 1 [7, 0]) = false
      ∧ Instr.wf (.lengths 5) (.cbLenOrdered 1 [1]) = false
      ∧ Instr.wf (.lengths 1) (.cbLenOrdered 31 [0, 0]) = false := by decide

theorem test_wf_lookup :
    vqF.wf 1 4 2 100 = true ∧ { vqF with mult := [0] }.wf 1 4 2 100 = false
      ∧ { vqF with mult := [0, 4] }.wf 1 4 2 100 = false ∧ vqF.wf 1 4 2 1 = false ∧ vqF.wf 2 4 2 100 = false := by decide

theorem test_wf_floor :
    floorF.wf = true ∧ { floorF with partClass := List.replicate 32 0 }.wf = false
      ∧ { floorF with classes := [] }.wf = false ∧ { floorF with classes := [{ classF with sub := 2 }] }.wf = false
      ∧ { floorF with xs := [5] }.wf = false ∧ { floorF with xs := [5, 16] }.wf = false
      ∧ { classF with master := none }.wf = false ∧ { classF with books := [1] }.wf = false := by decide

theorem test_wf_residue :
    residueF.wf = true ∧ { residueF with cascade := [] }.wf = false ∧ { residueF with books := [[4, 5]] }.wf = false := by
  decide

theorem test_wf_mapping :
    mapF.wf 2 = true ∧ { mapF with coupling := some [] }.wf 2 = false ∧ { mapF with coupling := some [(0, 2)] }.wf 2 = false
      ∧ { mapF with coupling := some (List.replicate 257 (0, 1)) }.wf 2 = false
      ∧ { mapF with mux := [0] }.wf 2 = false ∧ { mapF with subs := [] }.wf 2 = false := by decide +kernel

theorem test_wf_context :
    Instr.wf (.audio 3) (.audioPacket 4) = false ∧ Instr.wf (.floorPayload 64) (.floor1PayloadPresent 64 0) = false
      ∧ Instr.wf (.floorPayload 64) (.floor1PayloadPresent 0 64) = false ∧ Instr.wf .window .timeEntry = false
      ∧ Instr.wf (.residuePayload .t1) .res0Payload = false := by decide

/-! ### Decoding: every instruction from a word written out from 30_encoding.md R80 to R93 -/

theorem test_decode_page : decodePage pageBytes = .ok page0 := by decide +kernel

theorem test_decode_headers :
    decodesTo .idHdr (bitsOfBytes idPacket) (.idHdr idFields) 233 = true
      ∧ decodesTo .commentHdr
          (bitsOfBytes (hex [3, 0x76, 0x6F, 0x72, 0x62, 0x69, 0x73, 3, 0, 0, 0, 0x61, 0x62, 0x63, 1, 0, 0, 0, 2, 0, 0, 0, 0x78, 0x79,
            1])) (.commentHdr commentF) 193 = true
      ∧ decodesTo .setupHdr (setupFrom 0) (.setupHdr 1) 64 = true := by decide +kernel

/-- The two codebooks of `SU2`. -/
theorem test_decode_codebooks :
    decodesTo (.codebook 0) (setupFrom 64) (.codebook 1 2) 64 = true
      ∧ decodesTo (.lengths 2) (setupFrom 128) (.cbLenDense [0, 0]) 12 = true
      ∧ decodesTo (.lookup 0 2 1 100) (setupFrom 140) .cbLookup0 4 = true
      ∧ decodesTo (.codebook 1) (setupFrom 144) (.codebook 2 4) 64 = true
      ∧ decodesTo (.lengths 4) (setupFrom 208) (.cbLenDense [1, 1, 1, 1]) 22 = true
      ∧ decodesTo (.lookup 1 4 2 100) (setupFrom 230) (.cbLookup1 vqF) 77 = true := by decide +kernel

/-- The sparse and ordered lists of V-CB-4, and a lookup of type 2. -/
theorem test_decode_lengths_lookup2 :
    decodesTo (.lengths 3) (bits [0, 1, 1, 0, 0, 0, 0, 0, 0, 1, 0, 0, 0, 0, 0]) (.cbLenSparse [some 0, none, some 0]) 15 = true
      ∧ decodesTo (.lengths 5) (bits [1, 1, 0, 0, 0, 0, 1, 0, 0, 0, 0, 1]) (.cbLenOrdered 1 [1, 4]) 12 = true
      ∧ decodesTo (.lookup 0 1 2 2) (bits [0, 1, 0, 0] ++ bitsOf 32 0x62800001 ++ bitsOf 32 0x62600001 ++ bits [1, 0, 0, 0, 1]
          ++ bits [1, 0, 0, 1])
          (.cbLookup2 { minimum := 0x62800001, delta := 0x62600001, valueBitsM1 := 1, seq := true, mult := [1, 2] }) 77
        = true := by decide +kernel

/-- The time entry, floor, residue, mapping and mode of `SU2`. -/
theorem test_decode_setup_units :
    decodesTo (.time 0) (setupFrom 313) .timeEntry 16 = true
      ∧ decodesTo (.floor 0) (setupFrom 335)
          (.floor1 { partClass := [], classes := [], multM1 := 0, rangebits := 8, xs := [] }) 27 = true
      ∧ decodesTo (.residue 0) (setupFrom 368)
          (.res1 { begin := 0, stop := 128, psizeM1 := 3, classificationsM1 := 0, classbook := 0
                   cascade := [{ low := 1, high := none }], books := [[1]] }) 114 = true
      ∧ decodesTo (.mapping 0 1) (setupFrom 488)
          (.map0 { submapsM1 := none, coupling := none, reserved := 0, mux := []
                   subs := [{ placeholder := 0, floor := 0, residue := 0 }] }) 44 = true
      ∧ decodesTo (.mode 0) (setupFrom 538) (.mode false 0) 41 = true := by decide +kernel

/-- A floor with a partition: 16 bits 1, one partition of class 0, dimension 2, subclasses 1, masterbook 2, books 0 and none,
multiplier 3, range bits 4, X values 5 and 9. -/
theorem test_decode_floor :
    decodesTo (.floor 0)
      (bits [1, 0, 0, 0, 0, 0, 0, 0, 0, 0, 0, 0, 0, 0, 0, 0, 1, 0, 0, 0, 0, 0, 0, 0, 0, 1, 0, 0, 1, 0, 0, 1, 0, 0, 0, 0, 0, 0,
        1, 0, 0, 0, 0, 0, 0, 0, 0, 0, 0, 0, 0, 0, 0, 0, 0, 1, 0, 0, 1, 0, 1, 0, 1, 0, 1, 0, 0, 1])
      (.floor1 floorF) 68 = true := by decide +kernel

/-- Residues of type 0 and 2: begin 1, end 0x120, partition size 8, one classification, classbook 3, cascade 13, books 4, 5, 6. -/
theorem test_decode_residues :
    decodesTo (.residue 0)
      (bitsOfBytes (hex [0, 0, 1, 0, 0, 0x20, 1, 0, 7, 0, 0]) ++ bits [0, 0, 0, 0, 0, 0, 1, 1, 0, 0, 0, 0, 0, 0, 1, 0, 1, 1, 1, 0, 0, 0, 0]
        ++ bitsOfBytes (hex [4, 5, 6])) (.res0 residueF) 135 = true
    ∧ decodesTo (.residue 0)
      (bitsOfBytes (hex [2, 0, 1, 0, 0, 0x20, 1, 0, 7, 0, 0]) ++ bits [0, 0, 0, 0, 0, 0, 1, 1, 0, 0, 0, 0, 0, 0, 1, 0, 1, 1, 1, 0, 0, 0, 0]
        ++ bitsOfBytes (hex [4, 5, 6])) (.res2 residueF) 135 = true := by decide +kernel

/-- Two submaps, one coupling step (0, 1) of one-bit fields, and two mux values (V-HDR-5). -/
theorem test_decode_mapping :
    decodesTo (.mapping 0 2)
      (bitsOfBytes (hex [0, 0]) ++ bits [1, 1, 0, 0, 0, 1, 0, 0, 0, 0, 0, 0, 0, 0, 0, 1, 0, 0, 0, 0, 0, 0, 1, 0, 0, 0]
        ++ bitsOfBytes (hex [0, 0, 0, 7, 1, 2])) (.map0 mapF) 90 = true := by decide +kernel

/-- V-AU-1, and the payload units. -/
theorem test_decode_audio :
    decodesTo (.audio 1) (bits [0, 1]) (.audioPacket 0) 1 = true
      ∧ decodesTo (.audio 3) (bits [0, 0, 1]) (.audioPacket 2) 3 = true
      ∧ decode (.audio 1) (bits [1]) = .illegal .audioType 0 [1] 0
      ∧ decodesTo .window (bits [0, 1]) (.windowFlags false true) 2 = true
      ∧ decodesTo (.floorPayload 256) (bits [0, 1]) .floor1PayloadUnused 1 = true
      ∧ decodesTo (.floorPayload 256) (bits [1, 0, 1, 0, 1, 0, 0, 0, 0, 0, 1, 1, 1, 1, 0, 0, 0]) (.floor1PayloadPresent 10 30) 17 = true
      ∧ decodesTo (.residuePayload .t0) (bits [1]) .res0Payload 0 = true
      ∧ decodesTo (.residuePayload .t1) (bits [1]) .res1Payload 0 = true
      ∧ decodesTo (.residuePayload .t2) (bits [1]) .res2Payload 0 = true := by decide +kernel

/-- Words of spec/opcode_table.json, and words that its masks refuse. -/
theorem test_table_words :
    decodeTableWord 56 0x736962726F7605 = some (.setupHdr 0)
      ∧ decodeTableWord 24 0x564342 = some (.codebook 0 0) ∧ decodeTableWord 24 0x564343 = none
      ∧ decodeTableWord 16 0 = some .timeEntry ∧ (decodeTableWord 16 2).isSome = true ∧ decodeTableWord 16 3 = none
      ∧ decodeTableWord 40 1 = some (.mode true 0) ∧ decodeTableWord 40 2 = none
      ∧ decodeTableWord 48 0x00005367674F = some (.oggPage page1) ∧ decodeTableWord 48 0x08005367674F = none := by
  decide +kernel

/-- The very next step runs the placed word. -/
theorem test_fetch_word :
    nextIs (step (State.reset.withFetchWord 24 0x564342)) (fun t => decide (t.seq = .lengths ∧ t.codebooks.length = 1)) = true
      ∧ nextIs (step (State.reset.withFetchWord 8 0)) (fun t => decide (t.seq = .curves)) = true
      ∧ aborts (step (State.reset.withFetchWord 48 0x00005367674F)) .pageCrc 0 = true
      ∧ nextIs (step (State.reset.withFetchWord 16 1)) (fun t => decide (t.floors.length = 1)) = true := by
  decide +kernel

/-! ### Values of 95_test_vectors.md: the demultiplexer and the bit reader -/

/-- V-CRC-1, and V-CRC-2 for `PG0`. -/
theorem test_crc :
    crcOf (hex [0x31, 0x32, 0x33, 0x34, 0x35, 0x36, 0x37, 0x38, 0x39]) = 0x89A1897F
      ∧ crcOf (hex [0x4F, 0x67, 0x67, 0x53]) = 0x5FB0A94F ∧ crcTable 1 = 0x04C11DB7 ∧ crcTable 128 = 0x690CE0EE
      ∧ crcTable 255 = 0xB1F740B4 ∧ pageCrc page0 = 0xA09D05D6 := by decide +kernel

/-- V-DMX-1: capture is checked first; header type 7 passes. -/
theorem test_header_checks :
    checkHeader (hex [0x4E, 0x67, 0x67, 0x53, 1, 8]) = some .pageCapture
      ∧ checkHeader (hex [0x4F, 0x67, 0x67, 0x53, 1, 8]) = some .pageVersion
      ∧ checkHeader (hex [0x4F, 0x67, 0x67, 0x53, 0, 8]) = some .pageHtype
      ∧ checkHeader (hex [0x4F, 0x67, 0x67, 0x53, 0, 7]) = none := by decide

/-- V-BR-1 and V-BR-2. -/
theorem test_read_bits :
    (Reader.readBits 5 { bytes := hex [0xB5, 0x3C], pos := 7, exhausted := 0, clamped := 0 }).1 = 25
      ∧ Reader.readBits 1 { bytes := hex [0xB5, 0x3C], pos := 16, exhausted := 0, clamped := 0 }
        = (0, { bytes := hex [0xB5, 0x3C], pos := 16, exhausted := 1, clamped := 0 })
      ∧ Reader.readBits 12 { bytes := hex [0xFF], pos := 0, exhausted := 0, clamped := 0 }
        = (0x0FF, { bytes := hex [0xFF], pos := 8, exhausted := 1, clamped := 0 })
      ∧ Reader.readBits 40 { bytes := hex [1, 2, 3, 4, 5], pos := 0, exhausted := 0, clamped := 0 }
        = (0x04030201, { bytes := hex [1, 2, 3, 4, 5], pos := 32, exhausted := 0, clamped := 1 }) := by decide +kernel

/-! ### Headers -/

/-- V-HDR-1: 233 bits, and the registers it sets. -/
theorem test_id_header :
    nextIs (step (placed .hdrId .packet idPacket)) (fun t => decide (t.phase = .hdrComment ∧ t.pktBitpos = 233 ∧ t.packetNo = 1
      ∧ t.cfg.channels = 1 ∧ t.cfg.rate = 44100 ∧ t.cfg.bs0 = 256 ∧ t.cfg.bs1 = 256)) = true
      ∧ hostRead { State.reset with view := { HostView.clear with cfg := { IdConfig.absent with e0 := 8, e1 := 8 } } } 0x34
        = some 0x88 := by decide +kernel

/-- V-HDR-2: byte 28 `E8`; a packet cut to 29 bytes; and bitrates of all ones. -/
theorem test_id_header_errors :
    aborts (step (placed .hdrId .packet (idPacket.set 28 0xE8))) .idBlocksize 1 = true
      ∧ aborts (step (placed .hdrId .packet (idPacket.take 29))) .hdrFraming 0 = true
      ∧ aborts (step (placed .hdrId .packet (idPacket.set 6 0))) .hdrMagic 5 = true
      ∧ nextIs (step (placed .hdrId .packet (idPacket.take 16 ++ List.replicate 12 0xFF ++ idPacket.drop 28)))
          (fun t => decide (t.cfg.brMax = -1 ∧ t.cfg.brMin = -1)) = true := by decide +kernel

/-- V-HDR-3, the second and the third packet. -/
theorem test_comment_header :
    nextIs (step (placed .hdrComment .packet (hex [3, 0x76, 0x6F, 0x72, 0x62, 0x69, 0x73, 3, 0, 0, 0, 0x61, 0x62, 0x63, 1, 0, 0, 0,
        2, 0, 0, 0, 0x78, 0x79, 1])))
      (fun t => decide (t.phase = .hdrSetup ∧ t.cfg.vendorLen = 3 ∧ t.cfg.commentCount = 1 ∧ t.warn = .clear)) = true := by
  decide +kernel

theorem test_comment_header_short :
    nextIs (step (placed .hdrComment .packet (hex [3, 0x76, 0x6F, 0x72, 0x62, 0x69, 0x73, 0xE8, 3, 0, 0, 0, 0, 0, 0, 1])))
      (fun t => decide (t.phase = .error ∧ t.err.code = 18 ∧ t.err.index = 1 ∧ t.warn.exhausted = 997
        ∧ t.cfg.vendorLen = 0)) = true := by decide +kernel

/-- `SU2` says two codebooks; its time section has one entry. -/
theorem test_setup_header :
    nextIs (step (placed .hdrSetup .packet setupPacket)) (fun t => decide (t.nCodebooks = 2 ∧ t.seq = .codebook ∧ t.pktBitpos = 64))
      = true
      ∧ nextIs (step { placed .hdrSetup (.count .time) setupPacket with pktBitpos := 307 })
          (fun t => decide (t.seq = .time 0 1 ∧ t.pktBitpos = 313)) = true := by decide +kernel

theorem test_time_entry :
    nextIs (step (placed .hdrSetup (.time 3 5) (hex [0, 0]))) (fun t => decide (t.seq = .time 4 5 ∧ t.pktBitpos = 16)) = true
      ∧ aborts (step (placed .hdrSetup (.time 3 5) (hex [1, 0]))) .timeNonzero 3 = true := by decide +kernel

/-- V-HDR-4 and V-HDR-5: a coupling step, a reserved field, a mux value, a submap floor and residue. -/
theorem test_mapping :
    nextIs (execMap0 mapF { placed .hdrSetup .mapping [] with cfg := { IdConfig.absent with channels := 2 }, nFloors := 2, nResidues := 3 })
      (fun t => decide (t.mappings = [{ submaps := 2, couplingSteps := 1, mag := [0], ang := [1], mux := [0, 1], subFloor := [0, 1]
                                        subResidue := [0, 2] }])) = true := by decide +kernel

theorem test_mapping_errors :
    let s := { placed .hdrSetup .mapping [] with cfg := { IdConfig.absent with channels := 2 }, nFloors := 2, nResidues := 2 }
    aborts (execMap0 { mapF with coupling := some [(1, 1)] } s) .mapCoupling 0 = true
      ∧ aborts (execMap0 { mapF with reserved := 1 } s) .mapReserved 0 = true
      ∧ aborts (execMap0 { mapF with mux := [0, 2] } s) .mapMux 0 = true ∧ aborts (execMap0 mapF s) .mapResidue 0 = true := by
  decide +kernel

theorem test_mode :
    nextIs (execMode true 1 { placed .hdrSetup .mode [] with nMappings := 2 })
      (fun t => decide (t.modes = [{ blockflag := true, windowtype := 0, transformtype := 0, mapping := 1 }])) = true
      ∧ aborts (execMode true 2 { placed .hdrSetup .mode [] with nMappings := 2 }) .modeMapping 0 = true := by decide +kernel

/-! ### Codebooks -/

/-- A setup state whose last codebook has these dimensions and entries. -/
def bookState (dims entries : Nat) (q : Seq) (pkt : List Byte) : State :=
  { placed .hdrSetup q pkt with codebooks := [Codebook.fresh dims entries] }

/-- What a property says of the one codebook of a state. -/
def ofBook (f : Codebook → Bool) (t : State) : Bool :=
  match t.codebooks with
  | [b] => f b
  | _ => false

theorem test_codebook :
    nextIs (step (placed .hdrSetup .codebook (hex [0x42, 0x43, 0x56, 1, 0, 2, 0, 0])))
      (fun t => t.codebooks == [Codebook.fresh 1 2] && t.pktBitpos == 64) = true
      ∧ aborts (step (placed .hdrSetup .codebook (hex [0x42, 0x43, 0x57, 1, 0, 2, 0, 0]))) .cbSync 0 = true := by decide +kernel

/-- 41_bitreader.md R154, 60_exceptions.md R354: of the fields of 24, 16 and 24 bits a packet of four bytes cuts two short, and each
of them warns once; the counter stops at its last value. -/
theorem test_codebook_short :
    nextIs (step (placed .hdrSetup .codebook (hex [0x42, 0x43, 0x56, 1])))
      (fun t => decide (t.warn = { any := true, exhausted := 2, clamp := 0 } ∧ t.pktBitpos = 32
        ∧ t.codebooks = [Codebook.fresh 1 0])) = true
    ∧ nextIs (step { placed .hdrSetup .codebook (hex [0x42, 0x43, 0x56, 1]) with
                     warn := { any := true, exhausted := 0xFFFFFFFE, clamp := 0 } })
      (fun t => decide (t.warn.exhausted = 0xFFFFFFFF)) = true := by decide +kernel

/-- V-CB-4. -/
theorem test_lengths_dense :
    nextIs (execCbLenDense [1, 1, 1, 1] (bookState 1 4 .lengths [])) (ofBook (fun b => b.len == [some 2, some 2, some 2, some 2])) = true := by
  decide +kernel

theorem test_lengths_sparse :
    nextIs (execCbLenSparse [some 0, none, some 0] (bookState 1 3 .lengths [])) (ofBook (fun b => b.len == [some 1, none, some 1])) = true := by
  decide +kernel

theorem test_lengths_ordered :
    nextIs (execCbLenOrdered 1 [1, 4] (bookState 1 5 .lengths []))
        (ofBook (fun b => b.len == [some 2, some 3, some 3, some 3, some 3])) = true
      ∧ nextIs (execCbLenOrdered 0 [0, 2] (bookState 1 2 .lengths [])) (ofBook (fun b => b.len == [some 2, some 2])) = true := by
  decide +kernel

theorem test_lengths_ordered_errors :
    aborts (execCbLenOrdered 0 [3] (bookState 1 2 .lengths [])) .cbOrdered 0 = true
      ∧ aborts (step (bookState 1 2 .lengths (hex [1, 0, 0, 0, 0, 0, 0, 0, 0]))) .cbOrdered 0 = true := by decide +kernel

/-- V-CB-2: packed floats. -/
theorem test_float32_unpack :
    float32Unpack 0x60100000 = F32.one ∧ float32Unpack 0xE2800001 = .fin true (2 ^ 23) 126
      ∧ float32Unpack 0x62A00003 = .fin false (3 * 2 ^ 22) 128 ∧ float32Unpack 0x629FFFFF = .fin false (2097151 * 8) 146
      ∧ float32Unpack 0x80000000 = F32.zero ∧ float32Unpack 0x7FE00001 = .inf false
      ∧ float32Unpack 0x00000001 = F32.zero := by decide +kernel

/-- V-CB-3. -/
theorem test_lookup1_values :
    lookup1Values 8 2 = 2 ∧ lookup1Values 9 2 = 3 ∧ lookup1Values 0 1 = 0 ∧ lookup1Values 256 8 = 2 ∧ lookup1Values 255 8 = 1
      ∧ lookup1Values 26 3 = 2 ∧ lookup1Values 27 3 = 3 := by decide +kernel

theorem test_lookup0 : nextIs (execCbLookup0 (bookState 1 2 .lookup [])) (fun t => decide (t.seq = .huffBuild)) = true := by
  decide +kernel

/-- The lookup of codebook 1 of `SU2`, and V-CB-8. -/
theorem test_lookup1 :
    nextIs (execCbLookup1 vqF (bookState 2 4 .lookup []))
      (ofBook (fun b => b.lookup == 1 && b.lookupValues == 2 && b.delta == F32.one && b.valueBits == 2 && b.mult == [0, 2])) = true
      ∧ aborts (execCbLookup1 vqF (bookState 0 4 .lookup [])) .cbLookup1Dim0 0 = true
      ∧ aborts (step (bookState 2 4 .lookup (hex [3]))) .cbLookup 0 = true := by decide +kernel

theorem test_lookup2 :
    nextIs (execCbLookup2 { vqF with mult := [] } (bookState 0 4 .lookup []))
      (ofBook (fun b => b.lookup == 2 && b.lookupValues == 0)) = true
      ∧ aborts (execCbLookup2 vqF { bookState 1 2 .lookup [] with params := { defaultParams with maxMultiplicands := 1 } }) .capacity 3
        = true := by decide +kernel

/-- V-CB-5. -/
theorem test_codewords :
    (placeCodes 0 HuffTree.root [some 2, some 4, some 4, some 4, some 4, some 2, some 3, some 3]).code
      = [bits [0, 0], bits [0, 1, 0, 0], bits [0, 1, 0, 1], bits [0, 1, 1, 0], bits [0, 1, 1, 1], bits [1, 0], bits [1, 1, 0],
          bits [1, 1, 1]].map some
    ∧ (placeCodes 0 HuffTree.root [some 3, some 1, some 2]).code = [bits [0, 0, 0], bits [1], bits [0, 1]].map some
    ∧ (placeCodes 0 HuffTree.root [some 1, none, some 2, some 3, some 3]).code
      = [some (bits [0]), none, some (bits [1, 0]), some (bits [1, 1, 0]), some (bits [1, 1, 1])]
    ∧ (placeCodes 0 HuffTree.root [some 1, some 1, some 1]).complete = false := by decide +kernel

/-- V-CB-6: a codeword; a missing child; and zeros past the packet's end. -/
theorem test_huff_decode :
    (placeCodes 0 HuffTree.root [some 2, some 4, some 4, some 4, some 4, some 2, some 3, some 3]).tree.walk 0
      { bytes := hex [6], pos := 0, exhausted := 0, clamped := 0 } = .ok 3 { bytes := hex [6], pos := 4, exhausted := 0, clamped := 0 }
    ∧ (placeCodes 0 HuffTree.root [some 2, some 3, some 2]).tree.walk 7
      { bytes := hex [3], pos := 0, exhausted := 0, clamped := 0 }
      = .bad .huffInvalid 7 { bytes := hex [3], pos := 2, exhausted := 0, clamped := 0 }
    ∧ (placeCodes 0 HuffTree.root [some 2, some 4, some 4, some 4, some 4, some 2, some 3, some 3]).tree.walk 0
      { bytes := [], pos := 0, exhausted := 0, clamped := 0 } = .ok 0 { bytes := [], pos := 0, exhausted := 2, clamped := 0 } := by
  decide +kernel

/-- A small binary32 number: `n * 2^-2`. -/
def quarters (n : Int) : F32 := F32.round (decide (n < 0)) n.natAbs 147

/-- A codebook with these lookup fields, minimum and delta in quarters. -/
def vqBook (lookup dims lv minimum delta : Nat) (seq : Bool) (mult : List Nat) : Codebook :=
  { Codebook.fresh dims 4 with
    lookup := lookup, lookupValues := lv, minimum := (quarters minimum).neg, delta := quarters delta, seq := seq, mult := mult }

/-- V-CB-7. -/
theorem test_vq_vectors :
    vqVector (vqBook 1 2 2 4 4 false [0, 2]) 1 = some [quarters 4, quarters (-4)]
      ∧ vqVector (vqBook 1 2 2 4 4 true [0, 2]) 0 = some [quarters (-4), quarters (-8)]
      ∧ vqVector { vqBook 2 3 6 0 1 true [0, 1, 2, 3, 4, 5] with minimum := quarters 2 } 1
        = some [quarters 5, quarters 11, quarters 18]
      ∧ vqVector (vqBook 1 3 3 0 4 false [10, 20, 30]) 5 = some [quarters 120, quarters 80, quarters 40] := by decide +kernel

/-! ### Floors -/

/-- V-FL-8, and the entry of an accepted floor. -/
theorem test_floor :
    nextIs (execFloor1 floorF { placed .hdrSetup .floor [] with nCodebooks := 3 })
      (fun t => decide (t.floors = [{ type := 1, partitions := 1, partClass := [0], maxClass := 0
                                      classes := [{ dim := 2, sub := 1, master := some 2, books := [some 0, none] }]
                                      multiplier := 3, rangebits := 4, xs := [0, 16, 5, 9], values := 4 }])) = true := by
  decide +kernel

theorem test_floor_errors :
    aborts (execFloor1 floorF { placed .hdrSetup .floor [] with nCodebooks := 2 }) .floorBook 0 = true
      ∧ aborts (execFloor1 { floorF with xs := [5, 0] } { placed .hdrSetup .floor [] with nCodebooks := 3 }) .floorNeighbor 0 = true
      ∧ aborts (step (placed .hdrSetup .floor (hex [0, 0]))) .floorType 0 = true := by decide +kernel

/-- V-FL-1. -/
theorem test_render_point :
    renderPoint 0 10 100 20 50 = 15 ∧ renderPoint 0 20 100 10 50 = 15 ∧ renderPoint 0 0 3 10 1 = 3 ∧ renderPoint 0 10 3 0 1 = 7
      ∧ renderPoint 0 0 7 (-3) 5 = -2 := by decide

/-- V-FL-2. -/
theorem test_render_line :
    lineSegment 0 0 8 3 = [0, 0, 0, 1, 1, 1, 2, 2] ∧ lineSegment 0 3 8 0 = [3, 3, 3, 2, 2, 2, 1, 1]
      ∧ lineSegment 0 10 4 0 = [10, 8, 5, 3] ∧ lineSegment 0 0 5 (-7) = [0, -1, -2, -4, -5] := by decide +kernel

/-- A floor of multiplier 1 with this X list. -/
def floorOf (xs : List Nat) : FloorConfig := { FloorConfig.fresh with multiplier := 1, xs := xs, values := xs.length }

/-- V-FL-3, rows 2 to 5, and V-FL-4. -/
theorem test_step2 :
    floorStep2 (floorOf [0, 128, 64, 32, 96]) [100, 50, 3, 4, 0] = some ([100, 50, 73, 89, 62], [true, true, true, true, false])
      ∧ floorStep2 (floorOf [0, 128, 64, 32, 96]) [20, 240, 250, 0, 0] = some ([20, 240, 255, 137, 248], [true, true, true, false, false])
      ∧ floorStep2 (floorOf [0, 128, 64, 32, 96]) [128, 128, 255, 0, 0] = some ([128, 128, 0, 64, 64], [true, true, true, false, false])
      ∧ (floorStep2 (floorOf [0, 16, 8, 4]) [10, 30, 0, 7]).map (fun r => (r.1.getD 2 0, r.2)) = some (20, [true, true, true, true]) := by
  decide +kernel

/-- V-FL-5, the second curve, and the end of the first. -/
theorem test_curve :
    floorCurve 1 16 (sortPoints (floorPoints [0, 16, 8] [10, 30, 17] [true, true, true]))
      = [10, 10, 11, 12, 13, 14, 15, 16, 17, 18, 20, 21, 23, 25, 26, 28]
    ∧ floorCurve 1 32 (sortPoints (floorPoints [0, 16, 8] [10, 30, 20] [true, true, false]))
      = [10, 11, 12, 13, 15, 16, 17, 18, 20, 21, 22, 23, 25, 26, 27, 28] ++ List.replicate 16 30 := by decide +kernel

/-- V-FL-7. The raw value 1000 at X 64 is used and past the table. -/
theorem test_amplitude :
    (match floorVector defaultParams 128 (floorOf [0, 128, 64]) [10, 10, 1000] with
      | .amplitude finalY used curve => decide (finalY = [10, 10, 1000] ∧ used = [true, true, true] ∧ curve.length = 128
          ∧ curve.getD 63 0 = 984)
      | _ => false) = true := by decide +kernel

/-- 44_floor1.md R265: every entry of the default table is the binary32 number nearest to `10^(7*(i - 255)/256)`: half a unit
below and half a unit above, raised to the power 256. -/
theorem test_inverse_db :
    (invDbDefault.zipIdx.all (fun p =>
      match p.1 with
      | .fin false m e => decide (((2 * m - 1) ^ 256 * 10 ^ (7 * (255 - p.2)) < 2 ^ (256 * (150 - e)))
          ∧ 2 ^ (256 * (150 - e)) < (2 * m + 1) ^ 256 * 10 ^ (7 * (255 - p.2))) && p.1.canonical
      | _ => false)) = true
    ∧ invDbDefault.length = 256 ∧ invDbDefault.getD 255 .nan = F32.one := by decide +kernel

/-- 00_scope.md R6: the parameters of the reset state are a legal set. -/
theorem test_default_params : defaultParams.wf = true := by decide +kernel

/-! ### Residues -/

/-- V-RS-2. -/
theorem test_residue_parts :
    let rc (b e p : Nat) : ResidueConfig := { ResidueConfig.fresh .t1 with begin := b, stop := e, psize := p }
    residueParts (rc 0 300 4) (residueActual .t1 128 1) = 32 ∧ residueParts (rc 0 128 24) (residueActual .t1 128 1) = 5
      ∧ residueParts (rc 200 300 4) (residueActual .t1 128 1) = 0 ∧ residueParts (rc 64 32 4) (residueActual .t0 128 1) = 0
      ∧ residueParts (rc 0 300 4) (residueActual .t2 128 2) = 64 := by decide

/-- A residue unit and its errors (V-HDR-4). -/
theorem test_residue :
    nextIs (execRes2 residueF { placed .hdrSetup .residue [] with nCodebooks := 7 })
      (fun t => decide (t.residues = [{ type := .t2, begin := 1, stop := 0x120, psize := 8, classifications := 1, classbook := 3
                                        cascade := [13]
                                        books := [[some 4, none, some 5, some 6, none, none, none, none]] }])) = true
      ∧ aborts (execRes0 residueF { placed .hdrSetup .residue [] with nCodebooks := 3 }) .resBook 0 = true
      ∧ aborts (execRes1 residueF { placed .hdrSetup .residue [] with nCodebooks := 6 }) .resBook 0 = true
      ∧ aborts (step (placed .hdrSetup .residue (hex [3, 0]))) .resType 0 = true := by decide +kernel

/-- Codebook 1 of `SU2`: four 2-bit codewords, and the vectors of V-CB-7. -/
def book1 : Codebook :=
  { vqBook 1 2 2 4 4 false [0, 2] with tree := (placeCodes 0 HuffTree.root [some 2, some 2, some 2, some 2]).tree }

/-- Codebook 0 of `SU2`: two 1-bit codewords. -/
def book0 : Codebook :=
  { Codebook.fresh 1 2 with tree := (placeCodes 0 HuffTree.root [some 1, some 1]).tree }

/-- V-RS-3: entries 1 and 3, with the codewords `01` and `11`. -/
theorem test_partitions :
    let r : Reader := { bytes := hex [0x0E], pos := 0, exhausted := 0, clamped := 0 }
    let r' : Reader := { r with pos := 4 }
    partition .t0 [book1] 0 0 0 4 (List.replicate 4 F32.zero) r = .ok [quarters 4, quarters 4, quarters (-4), quarters 4] r'
      ∧ partition .t1 [book1] 0 0 0 4 (List.replicate 4 F32.zero) r = .ok [quarters 4, quarters (-4), quarters 4, quarters 4] r'
      ∧ deinterleave [quarters 4, quarters (-4), quarters 4, quarters 4] 2 2 1 = [quarters (-4), quarters 4] := by decide +kernel

/-- V-RS-5, one partition of 3 at offset 125 of 128, as on a vector of 3 at offset 0. -/
theorem test_overrun :
    partition .t1 [book1] 6 0 0 3 (List.replicate 3 F32.zero) { bytes := [], pos := 0, exhausted := 0, clamped := 0 }
      = .bad .resOverrun 6 { bytes := [], pos := 0, exhausted := 4, clamped := 0 } := by decide +kernel

/-! ### Audio packets and synthesis -/

/-- An audio state of the given channel count: one mode, one mapping of one submap, one floor, one residue of this type over the
books of `SU2`, and a frame of size `n`. -/
def audioState (t : ResType) (channels n : Nat) (q : Seq) (pkt : List Byte) : State :=
  { placed .audio q pkt with
    cfg := { IdConfig.absent with channels := channels, bs0 := n, bs1 := 2 * n }
    nModes := 1
    modes := [{ blockflag := false, windowtype := 0, transformtype := 0, mapping := 0 }]
    mappings := [{ submaps := 1, couplingSteps := 0, mag := [], ang := [], mux := List.replicate channels 0, subFloor := [0]
                   subResidue := [0] }]
    floors := [{ FloorConfig.fresh with multiplier := 1, rangebits := 8, xs := [0, 256], values := 2 }]
    residues := [{ ResidueConfig.fresh t with
                   begin := 0, stop := n / 2, psize := 4, classifications := 1, classbook := 0, cascade := [1]
                   books := [[some 1, none, none, none, none, none, none, none]] }]
    codebooks := [book0, book1]
    noResidue := List.replicate channels false
    floorUnused := List.replicate channels false
    floorUsed := List.replicate channels []
    frame := Frame.start channels 0 n false }

/-- V-AU-1: a mode number that is no mode; and a long block's flags. -/
theorem test_audio_packet :
    aborts (step { audioState .t1 1 8 .packet (hex [6]) with nModes := 3 }) .audioMode 3 = true
      ∧ nextIs (step (audioState .t1 1 8 .packet (hex [0]))) (fun t => decide (t.seq = .floorPayload 0 ∧ t.pktBitpos = 1)) = true
      ∧ aborts (step (audioState .t1 1 8 .packet (hex [1]))) .audioType 0 = true := by decide +kernel

/-- 44_floor1.md R260, R266, 60_exceptions.md R351: the used flags of channel 1 are written before its amplitude fails, those past
its points kept; and the head of a packet leaves the flags of step 2 as they are (10_state.md R26). -/
theorem test_used_flags :
    nextIs (step { audioState .t1 2 256 .curves [] with
                   floors := [floorOf [0, 128, 64]], floorUnused := [true, false]
                   floorUsed := [[true], [false, false, false, true]]
                   frame := { Frame.start 2 0 256 false with floorY := [[], [10, 10, 1000]] } })
      (fun t => decide (t.phase = .error ∧ t.err.index = 1 ∧ t.floorUsed = [[true], [true, true, true, true]])) = true
    ∧ nextIs (step { audioState .t1 2 8 .packet (hex [0]) with floorUsed := [[true]], noResidue := [true, true] })
      (fun t => decide (t.floorUsed = [[true], []] ∧ t.noResidue = [false, false])) = true := by decide +kernel

theorem test_window_flags :
    nextIs (step (audioState .t1 1 8 .window (hex [2])))
      (fun t => decide (t.frame.n = 16 ∧ t.frame.prevwin = false ∧ t.frame.nextwin = true)) = true := by decide +kernel

/-- The floor payload of `AU2` (program P2), and an unused floor. -/
theorem test_floor_payload_present :
    nextIs (step { audioState .t1 1 8 (.floorPayload 0) (hex [0x2A, 0x78, 0x40]) with pktBitpos := 1 })
      (fun t => decide (t.frame.floorY = [[10, 30]] ∧ t.floorUnused = [false] ∧ t.pktBitpos = 18 ∧ t.seq = .curves)) = true := by
  decide +kernel

/-- A floor of two partitions over the books of `SU2`: of the class with subclass bits, two slots; of the other, one. -/
def floorW : FloorConfig :=
  { FloorConfig.fresh with
    multiplier := 1, partClass := [0, 1], xs := [0, 256, 64, 32, 96], values := 5
    classes := [{ dim := 2, sub := 1, master := some 1, books := [none, some 0] },
      { dim := 1, sub := 0, master := none, books := [some 1] }] }

/-- A book with a missing leaf: the codewords `00`, `010` and `10`. -/
def bookGap : Codebook :=
  { book1 with tree := (placeCodes 0 HuffTree.root [some 2, some 3, some 2]).tree }

/-- 44_floor1.md R257 by hand: the class value is `10`, entry 2, so that its low bit names no book (0) and the next one book 0, whose
`1` is entry 1; the class without subclass bits reads `11`, entry 3. With a masterbook without the leaf `11`, the abort. -/
theorem test_floor_payload_slots :
    nextIs (step { audioState .t1 1 8 (.floorPayload 0) (hex [1, 0, 0x3A]) with floors := [floorW] })
      (fun t => decide (t.frame.floorY = [[0, 0, 0, 1, 3]] ∧ t.pktBitpos = 22)) = true
    ∧ aborts (step { audioState .t1 1 8 (.floorPayload 0) (hex [1, 0, 0x06]) with
                     floors := [floorW], codebooks := [book0, bookGap] }) .huffInvalid 1 = true := by decide +kernel

theorem test_floor_payload_unused :
    nextIs (step (audioState .t1 2 8 (.floorPayload 0) (hex [0])))
      (fun t => decide (t.noResidue = [true, false] ∧ t.floorUnused = [true, false] ∧ t.seq = .floorPayload 1)) = true := by
  decide +kernel

/-- One group of V-RS-3 through the payload units: the classbook codeword `0`, then `01` and `11`. -/
theorem test_residue_payload0 :
    nextIs (step (audioState .t0 1 8 (.residuePayload 0) (hex [0x1C])))
      (fun t => decide (t.frame.residue = [[quarters 4, quarters 4, quarters (-4), quarters 4]] ∧ t.pktBitpos = 5)) = true := by
  decide +kernel

theorem test_residue_payload1 :
    nextIs (step (audioState .t1 1 8 (.residuePayload 0) (hex [0x1C])))
      (fun t => decide (t.frame.residue = [[quarters 4, quarters (-4), quarters 4, quarters 4]] ∧ t.frame.classif = [[0]])) = true := by
  decide +kernel

theorem test_residue_payload2 :
    nextIs (step (audioState .t2 2 8 (.residuePayload 0) (hex [0x1C])))
      (fun t => decide (t.frame.residue = [[quarters 4, quarters 4, F32.zero, F32.zero],
        [quarters (-4), quarters 4, F32.zero, F32.zero]])) = true := by decide +kernel

/-- V-AU-2, in quarters of 12, and V-AU-3. -/
theorem test_decouple :
    decouple (quarters 12) (quarters (-4)) = (quarters 8, quarters 12)
      ∧ decouple (quarters (-12)) (quarters 4) = (quarters (-12), quarters (-8))
      ∧ decouple F32.zero (quarters 8) = (F32.zero, quarters 8) ∧ decouple (quarters 8) F32.zero = (quarters 8, quarters 8)
      ∧ decoupleAll [(0, 1), (1, 2)] [[quarters 12], [quarters 4], [quarters 4]] = [[quarters 12], [quarters 8], [F32.zero]] := by
  decide +kernel

/-- V-AU-4. -/
theorem test_propagate : propagate [(0, 1)] [true, false] = [false, false] := by decide

/-- V-SY-1, and the last values of V-SY-2: the slope at 127 is 1.0, and at 0 it is near 5.9139038e-05. -/
theorem test_window :
    windowBounds 2048 256 true false false = { ls := 448, le := 576, ln := 128, rs := 1472, re := 1600, rn := 128 }
      ∧ windowBounds 256 256 false false false = { ls := 0, le := 128, ln := 128, rs := 128, re := 256, rn := 128 }
      ∧ windowSlope .reference 128 127 = F32.one
      ∧ (match windowSlope .reference 128 0 with
          | .fin false m e => decide (59139033 * 2 ^ (149 - e) ≤ m * 10 ^ 12 ∧ m * 10 ^ 12 ≤ 59139043 * 2 ^ (149 - e))
          | _ => false) = true := by decide +kernel

/-- V-SY-3. -/
theorem test_output_length :
    outputLength .zeroQuarter 0 256 = 64 ∧ outputLength .none 0 256 = 0 ∧ outputLength .zeroQuarter 2048 256 = 576
      ∧ outputLength .zeroQuarter 256 2048 = 576 := by decide

/-- V-SY-4. -/
theorem test_pcm :
    pcm16 (quarters 2) = 16384 ∧ pcm16 F32.one = 32767 ∧ pcm16 (quarters (-4)) = 0x8000#16 ∧ pcm16 (quarters (-6)) = 0x8000#16
      ∧ pcm16 (F32.round false 1 133) = 0 ∧ pcm16 (F32.round false 3 133) = 2 ∧ pcm16 (F32.round true 1 133) = 0
      ∧ pcm16 .nan = 0 ∧ pcm16 (.inf true) = 0x8000#16 := by decide +kernel

/-- V-SY-5. -/
theorem test_interleave :
    interleave 2 [[quarters 1, quarters 2], [quarters 3, quarters (-1)]] = [8192, 24576, 16384, 0xE000#16] := by decide +kernel

/-! ### The host -/

/-- V-EX-1. -/
theorem test_status :
    statusNat HostView.clear = 0 ∧ statusNat { HostView.clear with phase := .hdrId } = 0x11
      ∧ statusNat { HostView.clear with phase := .done, warn := { any := true, exhausted := 1, clamp := 0 } } = 0xC5
      ∧ statusNat { HostView.clear with phase := .error, err := { ErrRec.clear with cls := .format } } = 0x126
      ∧ statusNat { HostView.clear with phase := .error, err := { ErrRec.clear with cls := .io } } = 0x226 := by decide

/-- V-EX-2. -/
theorem test_ctrl :
    (writeCtrl 1 State.reset).phase = .hdrId ∧ (writeCtrl 1 { State.reset with phase := .audio }).phase = .audio
      ∧ (writeCtrl 2 { State.reset with phase := .error }).phase = .idle ∧ (writeCtrl 3 State.reset).phase = .idle
      ∧ (writeCtrl 0xFFFFFFFC { State.reset with phase := .done }).phase = .done := by decide +kernel

/-- V-EX-3, for a source that fails at byte 3 of the stream. -/
theorem test_io_error :
    nextIs (step { placed .hdrId (.assemble false) [] with src := (hex [0x4F, 0x67, 0x67]).map .byte ++ [.ioFail] })
      (fun t => decide (t.phase = .error ∧ t.err.cls = .io ∧ t.err.code = 128 ∧ t.err.index = 3 ∧ t.srcPos = 3)) = true := by
  decide +kernel

/-- 40_ogg_demuxer.md R120: a page cut after the first byte of its table, and after the first byte of its payload, over an older
record; a byte that has not come keeps its old value. -/
theorem test_page_truncated :
    let old := { PageRec.empty with nseg := 3, seg := hex [9, 8, 7], payload := hex [1, 2, 3, 4, 5] }
    let s := fun (bytes : List Byte) =>
      { placed .audio (.assemble false) [] with src := (pageBytes.take 26 ++ bytes).map .byte ++ [.eos], pg := old }
    nextIs (step (s (hex [2, 6])))
      (fun t => decide (t.phase = .error ∧ t.err.code = 5 ∧ t.pg.nseg = 2 ∧ t.pg.serial = 0x1234 ∧ t.pg.seg = hex [6, 8]
        ∧ t.pg.payload = hex [1, 2, 3, 4, 5])) = true
    ∧ nextIs (step (s (hex [2, 1, 2, 0xAA])))
      (fun t => decide (t.pg.seg = hex [1, 2] ∧ t.pg.payload = hex [0xAA, 2, 3])) = true := by decide +kernel

/-! ### Witnesses: for every statement of Obligations.lean with hypotheses, states and operands that meet them -/

/-- The invariant under which no read is clamped, as a check. -/
theorem unclamped_of_check {s : State} (h : s.warn.clamp = 0 ∧ s.cfg.channels < 256 ∧ s.nModes ≤ 64
    ∧ (s.codebooks.all (fun b => decide (b.entries < 2 ^ 24))) = true) : s.Unclamped :=
  { clamp := h.1, channels := h.2.1, modes := h.2.2.1
    entries := fun b hb => of_decide_eq_true (List.all_eq_true.1 h.2.2.2 b hb) }

/-- A core that needs a page, and a source with these answers. -/
def pageState (p : Phase) (b : Bool) (bytes : List Byte) (after : List SrcAnswer) : State :=
  { placed p (.assemble b) [] with src := bytes.map .byte ++ after, pktContinuing := b }

/-- A core in the middle of a page with this segment table. -/
def segState (segs : List Nat) (limit : Nat) : State :=
  { placed .audio (.assemble false) [] with
    params := { defaultParams with maxPacketBytes := limit }
    pageValid := true
    pg := { PageRec.empty with
      nseg := BitVec.ofNat 8 segs.length, seg := hex segs, payload := List.replicate (total segs) 7 } }

theorem witness_EncodeThenDecode :
    ([(Ctx.page, Instr.oggPage page0), (.idHdr, .idHdr idFields), (.commentHdr, .commentHdr commentF), (.setupHdr, .setupHdr 255),
      (.codebook 0, .codebook 0xFFFF 0xFFFFFF), (.lengths 2, .cbLenDense [31, 0]), (.lengths 2, .cbLenSparse [none, some 31]),
      (.lengths 5, .cbLenOrdered 1 [1, 4]), (.lookup 0 4 2 2, .cbLookup0), (.lookup 0 4 2 2, .cbLookup1 vqF),
      (.lookup 0 1 2 2, .cbLookup2 vqF), (.time 0, .timeEntry), (.floor 0, .floor1 floorF)] : List (Ctx × Instr)).all
        (fun p => p.2.wf p.1) = true
    ∧ ([(.residue 0, .res0 residueF), (.residue 0, .res1 residueF), (.residue 0, .res2 residueF), (.mapping 0 2, .map0 mapF),
      (.mode 0, .mode true 255), (.audio 3, .audioPacket 3), (.window, .windowFlags true false),
      (.floorPayload 256, .floor1PayloadUnused), (.floorPayload 256, .floor1PayloadPresent 255 0), (.residuePayload .t0, .res0Payload),
      (.residuePayload .t1, .res1Payload), (.residuePayload .t2, .res2Payload)] : List (Ctx × Instr)).all
        (fun p => p.2.wf p.1) = true := by decide +kernel

theorem witness_DecodeThenEncode :
    decode .window (bits [1, 0, 1]) = .ok (.windowFlags true false) [true]
      ∧ (encode .window (.windowFlags true false)).length ≤ (bits [1, 0, 1]).length := by decide

theorem witness_IllegalSelectors :
    (takeNat 16 (bitsOf 16 1)).1 ≠ 0 ∧ (takeNat 16 (bitsOf 16 0)).1 ≠ 1 ∧ (takeNat 16 (bitsOf 16 2)).1 ≠ 1
      ∧ 2 < (takeNat 16 (bitsOf 16 3)).1 ∧ (takeNat 24 (bitsOf 24 0x564343)).1 ≠ 0x564342 ∧ 2 < (takeNat 4 (bitsOf 4 3)).1
      ∧ (takeNat 16 ((bits [0, 1]).drop 1)).1 ≠ 0
      ∧ (takeNat 16 ((bits [1] ++ bitsOf 16 0 ++ bitsOf 16 1).drop 1)).1 = 0
      ∧ (takeNat 16 ((bits [1] ++ bitsOf 16 0 ++ bitsOf 16 1).drop 17)).1 ≠ 0
      ∧ (bits [1]).headD false = true ∧ (takeNat 8 (bitsOf 8 2)).1 ≠ 1
      ∧ (takeNat 8 (bitsOfBytes (hex [3, 0x56]))).1 = 3 ∧ (takeNat 8 ((bitsOfBytes (hex [3, 0x56])).drop 8)).1 ≠ 0x76
      ∧ (takeNat 8 (bitsOfBytes (idPacket.set 6 0))).1 = 1
      ∧ (∀ j < 5, (takeNat 8 ((bitsOfBytes (idPacket.set 6 0)).drop (8 + 8 * j))).1
          = [0x76, 0x6F, 0x72, 0x62, 0x69, 0x73].getD j 0)
      ∧ (takeNat 8 ((bitsOfBytes (idPacket.set 6 0)).drop (8 + 8 * 5))).1 ≠ 0x73 := by decide +kernel

theorem witness_StepRunsDecoded :
    (let s := audioState .t1 1 8 .packet (hex [0])
     s.hostQ = [] ∧ s.phase.busy = true ∧ s.ctx = some (.audio 1)
       ∧ decode (.audio 1) s.reader.rest = .ok (.audioPacket 0) (s.reader.rest.drop 1))
    ∧ (let s := pageState .hdrId false pageBytes [.eos]
       s.hostQ = [] ∧ s.phase.busy = true ∧ s.seq = .assemble false ∧ s.needsPage = true
         ∧ decodePage (srcBytes s.src) = .ok page0)
    ∧ State.reset.hostQ = [] ∧ State.reset.phase.busy = false := by decide +kernel

theorem witness_StepTakesIllegal :
    (placed .hdrSetup .floor (hex [0, 0])).Inv
      ∧ (let s := placed .hdrSetup .floor (hex [0, 0])
         s.hostQ = [] ∧ s.phase.busy = true ∧ s.ctx = some (.floor 0)
           ∧ decode (.floor 0) s.reader.rest = .illegal .floorType 0 [16] 0)
      ∧ (let s := placed .hdrSetup .mode (hex [2, 0])
         s.ctx = some (.mode 0) ∧ decode (.mode 0) s.reader.rest = .illegal .modeWindow 0 [1, 16] 0)
      ∧ (let s := placed .hdrSetup .mode (hex [1, 0, 2])
         s.ctx = some (.mode 0) ∧ decode (.mode 0) s.reader.rest = .illegal .modeTransform 0 [1, 16, 16] 1)
      ∧ (let s := bookState 2 4 .lookup (hex [3])
         (s.ctx.map (fun c => decode c s.reader.rest)) = some (.illegal .cbLookup 0 [4] 3)) :=
  ⟨inv_of_check (by decide +kernel), by decide +kernel⟩

theorem witness_ReadBits : ∃ r : Reader, 0 < r.pos ∧ r.pos ≤ 8 * r.bytes.length :=
  ⟨{ bytes := hex [0x80], pos := 8, exhausted := 0, clamped := 0 }, by decide⟩

theorem witness_ReadsAgree :
    ∃ r : Reader, (32 : Nat) ≤ 32 ∧ (1 : Nat) ≤ 32 ∧ (1 : Nat) ≤ 1 ∧ 0 < r.pos ∧ r.pos ≤ 8 * r.bytes.length :=
  ⟨{ bytes := hex [0x80], pos := 8, exhausted := 0, clamped := 0 }, by decide⟩

theorem witness_PageAccepted :
    pageCrc page0 = page0.crc ∧ { State.reset with srcPos := 2 ^ 64 - 59 }.srcPos + page0.byteLength < 2 ^ 64 := by decide +kernel

theorem witness_PageCrcCheck :
    pageCrc { page0 with crc := 0xA09D05D7 } ≠ { page0 with crc := 0xA09D05D7 }.crc
      ∧ State.reset.srcPos + { page0 with crc := 0xA09D05D7 }.byteLength < 2 ^ 64
      ∧ 29 < page0.payload.length ∧ 7 < 8 ∧ pageCrc page0 = page0.crc := by decide +kernel

theorem witness_PageFailures :
    (let s := pageState .hdrId false (pageBytes.take 40) [.ioFail]
     s.hostQ = [] ∧ s.phase.busy = true ∧ s.seq = .assemble false ∧ s.needsPage = true
       ∧ s.src = (pageBytes.take 40).map .byte ++ [.ioFail] ∧ s.srcPos + (pageBytes.take 40).length < 2 ^ 64
       ∧ decodePage (pageBytes.take 40) = .short)
    ∧ (let s := pageState .audio true (pageBytes.take 10) [.eos]
       s.needsPage = true ∧ decodePage (pageBytes.take 10) = .short ∧ pageBytes.take 10 ≠ []
         ∧ s.src = (pageBytes.take 10).map .byte ++ [.eos])
    ∧ (pageState .hdrId false [] []).src = ([] : List Byte).map .byte ++ [] ∧ decodePage [] = .short
    ∧ leNat ((hex [0x4E, 0x67, 0x67, 0x53]).take 4) ≠ 0x5367674F
    ∧ (let b := (pageBytes.set 4 1).take 27
       27 ≤ b.length ∧ leNat (b.take 4) = 0x5367674F ∧ b.getD 4 0 ≠ 0)
    ∧ (let b := (pageBytes.set 5 8).take 27
       27 ≤ b.length ∧ leNat (b.take 4) = 0x5367674F ∧ b.getD 4 0 = 0 ∧ 7 < (b.getD 5 0).toNat) := by decide +kernel

theorem witness_EndOfStream :
    (let s := pageState .audio false [] [.eos]
     s.hostQ = [] ∧ s.phase.busy = true ∧ s.seq = .assemble false ∧ s.needsPage = true ∧ s.src = .eos :: [] ∧ s.phase = .audio)
    ∧ (let s := pageState .audio true [] [.eos]
       s.hostQ = [] ∧ s.phase.busy = true ∧ s.seq = .assemble true ∧ s.needsPage = true ∧ s.src = .eos :: [])
    ∧ (let s := pageState .hdrSetup false [] [.eos]
       s.hostQ = [] ∧ s.phase.busy = true ∧ s.seq = .assemble false ∧ s.needsPage = true ∧ s.src = .eos :: []
         ∧ s.phase ≠ .audio) := by decide +kernel

theorem witness_PacketAssembly :
    (placed .hdrId .boundary []).phase.busy = true
      ∧ ((segState [255, 45] 300).pageOk
        ∧ (let s := segState [255, 45] 300
           s.hostQ = [] ∧ s.phase.busy = true ∧ s.seq = .assemble false ∧ s.pageValid = true
             ∧ (s.pg.seg.drop s.segCursor).take (1 + 1) = List.replicate 1 255 ++ [45]
             ∧ s.pkt.length + (255 * 1 + (45 : Byte).toNat) ≤ s.params.maxPacketBytes))
      ∧ ((segState [255, 255] 510).pageOk
        ∧ (let s := segState [255, 255] 510
           s.hostQ = [] ∧ s.phase.busy = true ∧ s.seq = .assemble false ∧ s.pageValid = true
             ∧ s.pg.seg.drop s.segCursor = List.replicate 2 255 ∧ s.pkt.length + 255 * 2 ≤ s.params.maxPacketBytes))
      ∧ ((segState [255] 254).pageOk
        ∧ (let s := segState [255] 254
           s.pg.seg[s.segCursor]? = some 255 ∧ s.params.maxPacketBytes < s.pkt.length + (255 : Byte).toNat)) :=
  ⟨by decide, ⟨by unfold State.pageOk; decide +kernel, by decide +kernel⟩,
    ⟨by unfold State.pageOk; decide +kernel, by decide +kernel⟩,
    ⟨by unfold State.pageOk; decide +kernel, by decide +kernel⟩⟩

theorem witness_IdHeaderAccepted :
    idHdrError idFields = none ∧ idHdrError { idFields with e1 := 13 } = none
      ∧ { placed .hdrId .packet idPacket with packetNo := 2 ^ 32 - 2 }.packetNo + 1 < 2 ^ 32
      ∧ (placed .hdrId .packet idPacket).Inv :=
  ⟨by decide, by decide, by decide, inv_of_check (by decide +kernel)⟩

theorem witness_IdHeaderRejected :
    idHdrError { idFields with version := 1 } = some (.idVersion, 0, 8)
      ∧ idHdrError { idFields with channels := 0 } = some (.idChannels, 0, 9)
      ∧ idHdrError { idFields with rate := 0 } = some (.idRate, 0, 10)
      ∧ idHdrError { idFields with e0 := 7 } = some (.idBlocksize, 0, 15)
      ∧ idHdrError { idFields with e1 := 14 } = some (.idBlocksize, 1, 15)
      ∧ idHdrError { idFields with e0 := 9 } = some (.idBlocksize, 2, 15)
      ∧ idHdrError { idFields with framing := false } = some (.hdrFraming, 0, 16)
      ∧ (placed .hdrId .packet idPacket).Inv :=
  ⟨by decide, by decide, by decide, by decide, by decide, by decide, by decide, inv_of_check (by decide +kernel)⟩

theorem witness_CommentHeader :
    commentF.framing = true ∧ commentF.wf = true ∧ { commentF with framing := false }.framing = false
      ∧ { commentF with framing := false }.wf = true
      ∧ { State.reset with packetNo := 2 ^ 32 - 2 }.packetNo + 1 < 2 ^ 32 ∧ (placed .hdrComment .packet []).Inv :=
  ⟨rfl, by decide, rfl, by decide, by decide, inv_of_check (by decide +kernel)⟩

theorem witness_SetupHeader :
    (placed .hdrSetup .packet setupPacket).Inv ∧ (placed .hdrSetup (.count .mode) (hex [0x3F])).Inv
      ∧ (placed .hdrSetup .framing (hex [1])).Inv
      ∧ (let s := placed .hdrSetup (.count .mode) (hex [0x3F])
         s.hostQ = [] ∧ s.phase.busy = true ∧ s.seq = .count .mode)
      ∧ (let s := placed .hdrSetup .framing (hex [1])
         s.hostQ = [] ∧ s.phase.busy = true ∧ s.seq = .framing ∧ packetBit s.pkt s.pktBitpos = true ∧ s.packetNo + 1 < 2 ^ 32)
      ∧ (let s := placed .hdrSetup .framing []
         s.hostQ = [] ∧ s.phase.busy = true ∧ s.seq = .framing ∧ packetBit s.pkt s.pktBitpos = false) :=
  ⟨inv_of_check (by decide +kernel), inv_of_check (by decide +kernel), inv_of_check (by decide +kernel), by decide +kernel⟩

theorem witness_TimeEntry :
    (placed .hdrSetup (.time 0 2) (hex [0, 0])).Inv ∧ (placed .hdrSetup (.time 0 2) (hex [0, 0])).seq = .time 0 2
      ∧ (placed .hdrSetup (.time 63 64) (hex [0, 0])).seq = .time 63 64 :=
  ⟨inv_of_check (by decide +kernel), rfl, rfl⟩

theorem witness_CodebookHead : (placed .hdrSetup .codebook []).Inv := inv_of_check (by decide +kernel)

theorem witness_CodebookLengths :
    (bookState 1 2 .lengths []).Inv ∧ (bookState 1 2 .lengths []).codebooks = [] ++ [Codebook.fresh 1 2] :=
  ⟨inv_of_check (by decide +kernel), rfl⟩

theorem witness_OrderedLengths :
    (bookState 1 5 .lengths []).Inv ∧ (bookState 1 5 .lengths []).Unclamped
      ∧ (bookState 1 5 .lengths []).codebooks = [] ++ [Codebook.fresh 1 5]
      ∧ orderedWf 5 (32 - (1 : BitVec 5).toNat) 0 [1, 4] = true ∧ total [1, 4] = 5
      ∧ orderedWf 5 (32 - (1 : BitVec 5).toNat) 0 [1, 5] = true ∧ total [1, 5] ≠ 5
      ∧ orderedWf 5 (32 - (31 : BitVec 5).toNat) 0 [4] = true ∧ total [4] ≠ 5 :=
  ⟨inv_of_check (by decide +kernel), unclamped_of_check (by decide), rfl, by decide +kernel⟩

theorem witness_LookupFields :
    (bookState 2 4 .lookup []).Inv ∧ (bookState 2 4 .lookup []).codebooks = [] ++ [Codebook.fresh 2 4]
      ∧ (let s := { bookState 2 4 .lookup [] with params := { defaultParams with maxMultiplicands := 8 } }
         1 ≤ (Codebook.fresh 2 4).dims ∧ vqF.mult.length = lookup1Values 4 2
           ∧ s.multStored + lookup1Values 4 2 ≤ s.params.maxMultiplicands
           ∧ ({ vqF with mult := List.replicate 8 0 }).mult.length = 4 * 2 ∧ s.multStored + 4 * 2 ≤ s.params.maxMultiplicands) :=
  ⟨inv_of_check (by decide +kernel), rfl, by decide +kernel⟩

theorem witness_LookupErrors :
    (bookState 0 4 .lookup []).Inv ∧ (bookState 0 4 .lookup []).codebooks = [] ++ [Codebook.fresh 0 4]
      ∧ (Codebook.fresh 0 4).dims = 0
      ∧ (let s := { bookState 2 4 .lookup [] with params := { defaultParams with maxMultiplicands := 1 } }
         1 ≤ (Codebook.fresh 2 4).dims ∧ s.params.maxMultiplicands < s.multStored + lookup1Values 4 2)
      ∧ (let s := { bookState 2 4 .lookup [] with params := { defaultParams with maxMultiplicands := 7 } }
         s.params.maxMultiplicands < s.multStored + 4 * 2) :=
  ⟨inv_of_check (by decide +kernel), rfl, rfl, by decide +kernel⟩

theorem witness_Lookup1Values : ∃ dims v : Nat, 1 ≤ dims ∧ v ^ dims ≤ 8 ∧ 8 < (v + 1) ^ dims := ⟨3, 2, by decide⟩

theorem witness_Float32Unpacked :
    ((0x80000000 : BitVec 32).toNat % 2 ^ 21 = 0)
      ∧ (let x : BitVec 32 := 0x7FE00001
         x.toNat % 2 ^ 21 ≠ 0 ∧ 639 ≤ x.toNat / 2 ^ 21 % 2 ^ 10
           ∧ 2 ^ 277 ≤ x.toNat % 2 ^ 21 * 2 ^ (x.toNat / 2 ^ 21 % 2 ^ 10 - 639))
      ∧ (let x : BitVec 32 := 0x4FE00001
         x.toNat % 2 ^ 21 ≠ 0 ∧ x.toNat / 2 ^ 21 % 2 ^ 10 = 639
           ∧ x.toNat % 2 ^ 21 * 2 ^ (x.toNat / 2 ^ 21 % 2 ^ 10 - 639) < 2 ^ 277)
      ∧ (let x : BitVec 32 := 0x4FC00001
         x.toNat % 2 ^ 21 ≠ 0 ∧ x.toNat / 2 ^ 21 % 2 ^ 10 = 638 ∧ float32Unpack x = .fin false 0 0
           ∧ 2 * (x.toNat % 2 ^ 21) = (2 * 0 + 1) * 2 ^ (639 - x.toNat / 2 ^ 21 % 2 ^ 10)) := by decide +kernel

theorem witness_RoundsToNearest :
    (0 < 2 ^ 25 - 1 ∧ ((2 ^ 25 - 1) * 2 ^ 252 : ℚ) ≤ ((2 ^ 25 - 1 : Nat) : ℚ) * (2 : ℚ) ^ (252 : Int)
      ∧ ((1 : Nat) : ℚ) * (2 : ℚ) ^ (-1 : Int) < ((2 ^ 25 - 1) * 2 ^ 252 : ℚ)
      ∧ F32.round false 1 (-1) = .fin false 0 0 ∧ (F32.fin false 1 0).canonical = true
      ∧ |((1 : Nat) : ℚ) * (2 : ℚ) ^ (-1 : Int) - (0 : Nat) * 2 ^ 0| = |((1 : Nat) : ℚ) * (2 : ℚ) ^ (-1 : Int) - (1 : Nat) * 2 ^ 0|
      ∧ ((0 : Nat) : ℚ) * 2 ^ 0 ≠ ((1 : Nat) : ℚ) * 2 ^ 0)
    ∧ (F32.one.isFinite = true ∧ F32.zero.isFinite = true)
    ∧ ((F32.fin true 3 4).val + (F32.fin false 3 4).val = 0 ∧ (F32.fin true 3 4).val - (F32.fin true 3 4).val = 0
      ∧ (F32.fin true 3 4).val * (F32.fin false 0 0).val = 0)
    ∧ F32.zero.isZero = true ∧ (2 ^ 23 : Nat) ≠ 0 := by
  refine ⟨⟨by decide, ?_, ?_, by decide +kernel, by decide +kernel, ?_, ?_⟩, by decide, ?_, by decide⟩ <;>
    norm_num [abs_of_pos, abs_of_neg, F32.val]

/-- 00_scope.md R10 by hand: `2^24 + 1` is a tie and goes to the even significand, `(2^24 - 1) + 1` is exact, `1 * 2^-1` units is a
tie with 0, half a unit above the largest number is infinite, and the sum of opposite numbers is `+0.0`. -/
theorem test_float_ops :
    F32.add (.fin false (2 ^ 23) 1) (.fin false 1 0) = .fin false (2 ^ 23) 1
      ∧ F32.add (.fin false (2 ^ 24 - 1) 0) (.fin false 1 0) = .fin false (2 ^ 23) 1
      ∧ F32.mul (.fin true 1 0) (.fin false (2 ^ 23) 125) = .fin true 0 0
      ∧ F32.add (.fin false (2 ^ 24 - 1) 253) (.fin false (2 ^ 23) 229) = .inf false
      ∧ F32.sub F32.one F32.one = F32.zero ∧ (F32.fin true 0 0).gtZero = false ∧ F32.nan.gtZero = false := by decide +kernel

/-- The used lengths of a list are at least 1. -/
theorem used_of_check {lens : List (Option Nat)} (h : (lens.all (fun l => l.all (fun n => decide (1 ≤ n)))) = true) :
    ∀ l ∈ lens, ∀ n, l = some n → 1 ≤ n := by
  intro l hl n hn
  have := List.all_eq_true.1 h l hl
  subst hn
  simpa using this

/-- No codeword of a list comes next at a reader. -/
theorem no_codeword_of_check {code : List (Option (List Bool))} {r : Reader}
    (h : (code.all (fun x => x.all (fun c => decide (r.bits c.length ≠ c)))) = true) :
    ∀ (e : Nat) (c : List Bool), code[e]? = some (some c) → r.bits c.length ≠ c := by
  intro e c he
  have := List.all_eq_true.1 h _ (List.mem_of_getElem? he)
  simpa using this

theorem witness_HuffmanPlacement :
    (∀ l ∈ [some 2, none, some 3, some 2], ∀ n, l = some n → 1 ≤ n)
      ∧ (let p := placeCodes 0 HuffTree.root [some 2, none, some 3, some 2]
         p.complete = true ∧ p.code[3]? = some (some (bits [1, 0])) ∧ p.code[1]? = some none)
      ∧ (∀ l ∈ [some 1, some 1, some 1], ∀ n, l = some n → 1 ≤ n)
      ∧ (placeCodes 0 HuffTree.root [some 1, some 1, some 1]).complete = false
      ∧ (let p := placeCodes 0 HuffTree.root [some 2, none, some 3, some 2]
         (bits [1, 1]).length = 2 ∧ ∀ k < 3, ∀ c ∈ (p.code.getD k none).toList, ¬ c <+: bits [1, 1] ∧ ¬ bits [1, 1] <+: c) :=
  ⟨used_of_check (by decide), by decide +kernel, used_of_check (by decide), by decide +kernel, by decide +kernel⟩

theorem witness_HuffmanBuild :
    (let b := { Codebook.fresh 1 2 with len := [some 1, some 1] }
     let s := { placed .hdrSetup .huffBuild [] with codebooks := [b], params := { defaultParams with maxHuffNodes := 3 } }
     s.hostQ = [] ∧ s.phase.busy = true ∧ s.seq = .huffBuild ∧ s.codebooks = [] ++ [b]
       ∧ (placeCodes 0 HuffTree.root b.len).complete = true
       ∧ huffNodes [] + (placeCodes 0 HuffTree.root b.len).tree.nodeCount ≤ s.params.maxHuffNodes
       ∧ 2 < huffNodes [] + (placeCodes 0 HuffTree.root b.len).tree.nodeCount)
    ∧ (placeCodes 0 HuffTree.root [some 1, some 1, some 1]).complete = false := by decide +kernel

theorem witness_HuffmanDecode :
    (∀ l ∈ [some 2, some 3, some 2], ∀ n, l = some n → 1 ≤ n)
      ∧ (placeCodes 0 HuffTree.root [some 2, some 3, some 2]).complete = true
      ∧ ((placeCodes 0 HuffTree.root [some 2, some 3, some 2]).code[1]? = some (some (bits [0, 1, 0]))
        ∧ Reader.bits { bytes := hex [2], pos := 0, exhausted := 0, clamped := 0 } 3 = bits [0, 1, 0])
      ∧ (∀ (e : Nat) (c : List Bool), (placeCodes 0 HuffTree.root [some 2, some 3, some 2]).code[e]? = some (some c) →
          Reader.bits { bytes := hex [3], pos := 0, exhausted := 0, clamped := 0 } c.length ≠ c) :=
  ⟨used_of_check (by decide), by decide +kernel, by decide +kernel, no_codeword_of_check (by decide +kernel)⟩

theorem witness_VqVectors :
    (let b := vqBook 1 2 2 4 4 true [0, 2]
     3 < b.entries ∧ b.lookup = 1 ∧ 1 ≤ b.dims ∧ b.lookupValues = lookup1Values b.entries b.dims ∧ b.mult.length = b.lookupValues)
    ∧ (let b := { vqBook 2 3 12 4 4 true (List.replicate 12 1) with entries := 4 }
       3 < b.entries ∧ b.lookup = 2 ∧ b.lookupValues = b.entries * b.dims ∧ b.mult.length = b.lookupValues)
    ∧ ([book0, book1][0]? = some book0 ∧ book0.lookup = 0)
    ∧ (let b := { book1 with dims := 0 }
       [b][0]? = some b ∧ b.lookup ≠ 0 ∧ b.dims = 0)
    ∧ ([book0, book1][1]? = some book1 ∧ book1.lookup ≠ 0 ∧ book1.dims ≠ 0
      ∧ book1.tree.walk 1 { bytes := hex [3], pos := 0, exhausted := 0, clamped := 0 }
        = .ok 3 { bytes := hex [3], pos := 2, exhausted := 0, clamped := 0 }
      ∧ vqVector book1 3 = some [quarters 4, quarters 4]) := by decide +kernel

theorem witness_FloorAccepted : floorError 3 floorF = none ∧ (placed .hdrSetup .floor []).Inv :=
  ⟨by decide, inv_of_check (by decide +kernel)⟩

theorem witness_FloorRejected :
    floorError 2 floorF = some .floorBook ∧ floorError 3 { floorF with classes := [{ classF with books := [1, 4] }] } = some .floorBook
      ∧ floorError 3 { floorF with xs := [5, 0] } = some .floorNeighbor
      ∧ { placed .hdrSetup .floor [] with nCodebooks := 2 }.Inv :=
  ⟨by decide, by decide, by decide, inv_of_check (by decide +kernel)⟩

/-- The widths up to the failing field, by hand from 30_encoding.md R88 to R90: the masterbook of `floorF`, its second subclass book,
and its X values, after all fields; the classbook and the third pass book of `residueF`; and of `mapF` the angle, the reserved field,
the second channel's submap, and the first submap's floor. -/
theorem test_reads_to_failure :
    readUpTo (fieldWidths (.floor 0) (.floor1 floorF)) (floorFieldsOk 2 floorF) = [16, 5, 4, 3, 2, 8]
      ∧ (let f := { floorF with classes := [{ classF with books := [1, 4] }] }
         readUpTo (fieldWidths (.floor 0) (.floor1 f)) (floorFieldsOk 3 f) = [16, 5, 4, 3, 2, 8, 8, 8])
      ∧ (let f := { floorF with xs := [5, 0] }
         readUpTo (fieldWidths (.floor 0) (.floor1 f)) (floorFieldsOk 3 f) = [16, 5, 4, 3, 2, 8, 8, 8, 2, 4, 4, 4])
      ∧ readUpTo (fieldWidths (.residue 0) (.res1 residueF)) (residueFieldsOk 3 residueF) = [16, 24, 24, 24, 6, 8]
      ∧ readUpTo (fieldWidths (.residue 0) (.res1 residueF)) (residueFieldsOk 6 residueF)
        = [16, 24, 24, 24, 6, 8, 3, 1, 5, 8, 8, 8]
      ∧ (let f := { mapF with coupling := some [(1, 1)] }
         readUpTo (fieldWidths (.mapping 0 2) (.map0 f)) (mappingFieldsOk 2 2 3 f) = [16, 1, 4, 1, 8, 1, 1])
      ∧ (let f := { mapF with reserved := 1 }
         readUpTo (fieldWidths (.mapping 0 2) (.map0 f)) (mappingFieldsOk 2 2 3 f) = [16, 1, 4, 1, 8, 1, 1, 2])
      ∧ (let f := { mapF with mux := [0, 2] }
         readUpTo (fieldWidths (.mapping 0 2) (.map0 f)) (mappingFieldsOk 2 2 3 f) = [16, 1, 4, 1, 8, 1, 1, 2, 4, 4])
      ∧ readUpTo (fieldWidths (.mapping 0 2) (.map0 mapF)) (mappingFieldsOk 2 0 3 mapF)
        = [16, 1, 4, 1, 8, 1, 1, 2, 4, 4, 8, 8] := by decide

theorem witness_FloorPayloadUnused :
    (audioState .t1 1 8 (.floorPayload 0) []).seq = .floorPayload 0 ∧ (audioState .t1 2 8 (.floorPayload 1) []).seq = .floorPayload 1
      ∧ (audioState .t1 1 8 (.floorPayload 0) []).Inv := ⟨rfl, rfl, inv_of_check (by decide +kernel)⟩

/-- A floor of one partition, with a masterbook and a subclass book. -/
def floorR : FloorConfig :=
  { FloorConfig.fresh with
    multiplier := 1, partClass := [0], xs := [0, 256, 64], values := 3
    classes := [{ dim := 1, sub := 1, master := some 0, books := [none, some 0] }] }

theorem floorR_ready : floorReady [book0, book1] floorR := by
  have h0 : scalarReady [book0, book1] 0 := ⟨book0, rfl, by decide +kernel⟩
  intro c hc
  obtain rfl : c = 0 := by simpa [floorR] using hc
  refine ⟨_, rfl, rfl, fun _ => ⟨0, rfl, h0⟩, ?_⟩
  intro b hb i hi
  subst hi
  obtain rfl : i = 0 := by simpa using hb
  exact h0

theorem witness_FloorPayloadPresent :
    let s := { audioState .t1 1 8 (.floorPayload 0) (hex [0xFF, 0xFF, 0xFF]) with floors := [floorR] }
    s.Inv ∧ s.seq = .floorPayload 0 ∧ s.channelFloor 0 = some floorR ∧ floorReady s.codebooks floorR :=
  ⟨inv_of_check (by decide +kernel), rfl, rfl, floorR_ready⟩

/-- A reader of three bytes, its payload's codewords from bit 17 on. -/
def floorReader (byte pos : Nat) : Reader := { bytes := hex [1, 0, byte], pos := pos, exhausted := 0, clamped := 0 }

/-- The values of `test_floor_payload_slots`; then a missing leaf of a masterbook, and one of a slot's book after the first
partition. -/
theorem witness_FloorPayloadPresent_read :
    (floorReader 0x3A 0).skips [1, 8, 8] = floorReader 0x3A 17
    ∧ PartitionsRead [book0, book1] floorW [0, 1] (floorReader 0x3A 17) [0, 1, 3] (floorReader 0x3A 22)
    ∧ huffDecode [book0, bookGap] 1 (floorReader 0x06 17) = .bad .huffInvalid 1 (floorReader 0x06 19)
    ∧ (PartitionsRead [book0, book1, bookGap]
          { floorW with classes := floorW.classes.set 1 { dim := 1, sub := 0, master := none, books := [some 2] } } [0]
          (floorReader 0x3A 17) [0, 1] (floorReader 0x3A 20)
      ∧ ClassValueRead [book0, book1, bookGap] { dim := 1, sub := 0, master := none, books := [some 2] } (floorReader 0x3A 20) 0
          (floorReader 0x3A 20)
      ∧ slotBook { dim := 1, sub := 0, master := none, books := [some 2] } 0 0 = some (some 2)
      ∧ huffDecode [book0, book1, bookGap] 2 (floorReader 0x3A 20) = .bad .huffInvalid 2 (floorReader 0x3A 22)) := by
  refine ⟨by decide +kernel, ?_, by decide +kernel, ?_, .inl ⟨rfl, rfl, rfl⟩, rfl, by decide +kernel⟩
  · exact ⟨_, 2, floorReader 0x3A 19, [0, 1], floorReader 0x3A 20, [3], rfl, .inr ⟨by decide, 1, rfl, by decide +kernel⟩, rfl,
      ⟨_, .inl ⟨rfl, rfl, rfl⟩, floorReader 0x3A 20, .inr ⟨0, rfl, by decide +kernel⟩, rfl⟩,
      ⟨_, 0, floorReader 0x3A 20, [3], floorReader 0x3A 22, [], rfl, .inl ⟨rfl, rfl, rfl⟩, rfl,
        ⟨floorReader 0x3A 22, .inr ⟨1, rfl, by decide +kernel⟩, rfl⟩, ⟨rfl, rfl⟩, rfl⟩, rfl⟩
  · exact ⟨_, 2, floorReader 0x3A 19, [0, 1], floorReader 0x3A 20, [], rfl, .inr ⟨by decide, 1, rfl, by decide +kernel⟩, rfl,
      ⟨_, .inl ⟨rfl, rfl, rfl⟩, floorReader 0x3A 20, .inr ⟨0, rfl, by decide +kernel⟩, rfl⟩, ⟨rfl, rfl⟩, rfl⟩

theorem witness_FloorSynthesis :
    (2 * min ((256 : Int) - 100) 100 ≤ (200 : Nat) ∧ (100 : Int) < 256 - 100)
    ∧ (2 * min ((256 : Int) - 128) 128 ≤ (256 : Nat) ∧ (256 : Int) - 128 ≤ 128)
    ∧ ((199 : Nat) : Int) < 2 * min ((256 : Int) - 100) 100 ∧ 199 % 2 = 1 ∧ 198 % 2 = 0
    ∧ (∀ j < 5, 2 ≤ j → lowNeighbor (floorOf [0, 128, 64, 32, 96]).xs j ≠ none
        ∧ highNeighbor (floorOf [0, 128, 64, 32, 96]).xs j ≠ none)
    ∧ lowNeighbor (floorOf [0, 128, 64, 32, 96]).xs (2 + 2) = some 2
    ∧ highNeighbor (floorOf [0, 128, 64, 32, 96]).xs (2 + 2) = some 1 ∧ [3, 4, 0][2]? = some 0 ∧ [3, 4, 0][1]? = some 4
    ∧ (floorPoints [0, 16] [10, 30] [true, true])[1]? = some { x := 16, y := 30, used := true }
    ∧ (let p0 : FloorPoint := { x := 0, y := 10, used := true }
       let ps : List FloorPoint := [{ x := 8, y := 20, used := false }, { x := 8, y := 17, used := true }, { x := 16, y := 30, used := true }]
       p0.x = 0 ∧ (p0 :: ps).Pairwise (fun p q => p.x ≤ q.x) ∧ (∃ p ∈ ps, p.used = true)
         ∧ (curvePoints (p0 :: ps))[1]? = some { x := 8, y := 17, used := true }
         ∧ (curvePoints (p0 :: ps))[2]? = some { x := 16, y := 30, used := true }
         ∧ (curvePoints (p0 :: ps)).getLast? = some { x := 16, y := 30, used := true }) := by decide

theorem witness_FloorNeighbors :
    lowNeighbor [0, 128, 64, 32, 96] 4 = some 2 ∧ highNeighbor [0, 128, 64, 32, 96] 4 = some 1
      ∧ 2 ≤ 2 ∧ [0, 128, 0].getD 0 0 = 0 ∧ lowNeighbor [0, 128, 0] 2 = none ∧ [0, 128, 127].getD 2 0 < [0, 128, 127].getD 1 0 := by
  decide

theorem witness_RenderPoint :
    ((0 < 100 ∧ 0 ≤ 100 ∧ 100 ≤ 100) ∧ (10 : Int) ≤ 20) ∧ ((0 < 3 ∧ 0 ≤ 0 ∧ 0 ≤ 3) ∧ (-3 : Int) < 0) := by decide

/-- A core before the curves of a frame of 256: channel 0 with these Y values, channel 1 silent, channel 2 past the table. -/
def curvesState (channels : Nat) (y : List Nat) : State :=
  { audioState .t1 channels 256 .curves [] with
    floors := [floorOf [0, 128, 64]], floorUnused := [false, true, false]
    frame := { Frame.start channels 0 256 false with floorY := [y, [], [10, 10, 1000]] } }

/-- Whether the vector of a channel's floor comes out. -/
def floorOk (s : State) (ch : Nat) : Bool :=
  match s.channelFloor ch with
  | none => false
  | some f =>
    match floorVector s.params (s.frame.n / 2) f (s.frame.floorY.getD ch []) with
    | .ok _ _ _ _ => true
    | _ => false

theorem floorOk_spec {s : State} {ch : Nat} (h : floorOk s ch = true) :
    ∃ f finalY used curve vec, s.channelFloor ch = some f
      ∧ floorVector s.params (s.frame.n / 2) f (s.frame.floorY.getD ch []) = .ok finalY used curve vec := by
  unfold floorOk at h
  split at h
  · cases h
  · rename_i f hf
    split at h
    · rename_i a b c d hv
      exact ⟨f, a, b, c, d, hf, hv⟩
    · cases h

theorem witness_FloorCurves :
    (let s := { audioState .t1 1 8 .curves [] with noResidue := [true], floorUnused := [true] }
     s.hostQ = [] ∧ s.phase.busy = true ∧ s.seq = .curves ∧ s.frameMapping.isSome = true ∧ s.frame.floor.length = s.cfg.channels
       ∧ s.floorUnused = List.replicate s.cfg.channels true ∧ s.noResidue = List.replicate s.cfg.channels true
       ∧ ∀ m ∈ s.frameMapping.toList, ∀ st ∈ m.steps, st.1 < s.cfg.channels ∧ st.2 < s.cfg.channels)
    ∧ (floorStep2 (floorOf [0, 256]) [0, 255] = some ([0, 255], [true, true])
      ∧ (∀ a ∈ floorCurve 1 256 (sortPoints (floorPoints [0, 256] [0, 255] [true, true])), 0 ≤ a ∧ a ≤ 255)
      ∧ defaultParams.invDb.length = 256)
    ∧ (∃ a ∈ floorCurve 1 1 (sortPoints (floorPoints [0, 256] [256, 256] [true, true])), a < 0 ∨ 255 < a) := by
  refine ⟨by decide +kernel, by decide +kernel, 256, by decide +kernel, by decide⟩

theorem witness_FloorCurves_step :
    (let s := curvesState 2 [10, 10, 3]
     s.hostQ = [] ∧ s.phase.busy = true ∧ s.seq = .curves ∧ s.frameMapping.isSome = true ∧ s.floorRows s.cfg.channels
       ∧ ∀ ch < s.cfg.channels, s.floorUnused.getD ch false = true
          ∨ ∃ f finalY used curve vec, s.channelFloor ch = some f
            ∧ floorVector s.params (s.frame.n / 2) f (s.frame.floorY.getD ch []) = .ok finalY used curve vec)
    ∧ (let s := curvesState 3 [10, 10, 3]
       s.frameMapping.isSome = true ∧ s.floorRows s.cfg.channels ∧ 2 < s.cfg.channels
         ∧ (∀ k < 2, s.floorUnused.getD k false = true
            ∨ ∃ f finalY used curve vec, s.channelFloor k = some f
              ∧ floorVector s.params (s.frame.n / 2) f (s.frame.floorY.getD k []) = .ok finalY used curve vec)
         ∧ s.floorUnused.getD 2 false = false ∧ s.channelFloor 2 = some (floorOf [0, 128, 64])
         ∧ (match floorVector s.params (s.frame.n / 2) (floorOf [0, 128, 64]) (s.frame.floorY.getD 2 []) with
            | .amplitude _ _ _ => true
            | _ => false) = true) := by
  have h : ∀ c, c = 2 ∨ c = 3 → ∀ ch < 2, (curvesState c [10, 10, 3]).floorUnused.getD ch false = true
      ∨ ∃ f finalY used curve vec, (curvesState c [10, 10, 3]).channelFloor ch = some f
        ∧ floorVector (curvesState c [10, 10, 3]).params ((curvesState c [10, 10, 3]).frame.n / 2) f
            ((curvesState c [10, 10, 3]).frame.floorY.getD ch []) = .ok finalY used curve vec := by
    rintro c (rfl | rfl) ch hch <;> obtain rfl | rfl : ch = 0 ∨ ch = 1 := by omega
    · exact .inr (floorOk_spec (by decide +kernel))
    · exact .inl rfl
    · exact .inr (floorOk_spec (by decide +kernel))
    · exact .inl rfl
  exact ⟨⟨rfl, rfl, rfl, rfl, by unfold State.floorRows; decide +kernel, h 2 (.inl rfl)⟩, rfl,
    by unfold State.floorRows; decide +kernel, by decide, h 3 (.inr rfl), rfl, rfl, by decide +kernel⟩

theorem witness_ResidueUnit :
    residueF.wf = true ∧ residueError 7 residueF = none ∧ residueError 6 residueF = some .resBook
      ∧ residueError 3 residueF = some .resBook ∧ (placed .hdrSetup .residue []).Inv
      ∧ residueF.cascade[0]? = some { low := 5, high := some 1 } ∧ residueF.books[0]? = some [4, 5, 6] :=
  ⟨by decide, by decide, by decide, by decide, inv_of_check (by decide +kernel), rfl, rfl⟩

theorem audio_residue_ready (t : ResType) (c : ResidueConfig) (h : (audioState t 2 8 (.residuePayload 0) []).residues = [c]) :
    residueReady [book0, book1] c := by
  have h1 : vectorReady [book0, book1] 1 :=
    ⟨book1, rfl, by decide +kernel, by decide, by decide, by decide +kernel⟩
  obtain rfl : _ = c := List.cons.inj h |>.1
  refine ⟨⟨book0, rfl, by decide +kernel, by decide⟩, by simp, rfl, ?_⟩
  intro row hr
  obtain rfl : row = _ := by simpa using hr
  refine ⟨rfl, ?_⟩
  intro b hb i hi
  subst hi
  obtain rfl : i = 1 := by simpa using hb
  refine ⟨h1, Or.inr ?_⟩
  intro k hk
  obtain rfl : book1 = k := by simpa using hk
  have hd : book1.dims = 2 := by decide +kernel
  simp [hd]

theorem witness_ResiduePayloads :
    (∀ t : ResType, (audioState t 2 8 (.residuePayload 0) []).Inv
      ∧ ∃ m c, (audioState t 2 8 (.residuePayload 0) []).frameMapping = some m
        ∧ (audioState t 2 8 (.residuePayload 0) []).submapResidue m 0 = some (0, c)
        ∧ 2 ≤ (audioState t 2 8 (.residuePayload 0) []).frame.residue.length
        ∧ m.submapChannels 2 0 = [0, 1] ∧ c.type = t
        ∧ residueParts c (residueActual c.type 4 2) ≠ 0
        ∧ (∃ ch ∈ [0, 1], (audioState t 2 8 (.residuePayload 0) []).noResidue.getD ch false = false)
        ∧ residueReady [book0, book1] c)
    ∧ (let s := { audioState .t1 2 8 (.residuePayload 0) [] with noResidue := [true, true] }
       ∀ m ∈ s.frameMapping.toList, m.submapChannels s.cfg.channels 0 ≠ []
         ∧ ∀ ch ∈ m.submapChannels s.cfg.channels 0, s.noResidue.getD ch false = true)
    ∧ residueParts { ResidueConfig.fresh .t0 with begin := 4, stop := 9, psize := 1 } (residueActual .t0 4 2) = 0 := by
  refine ⟨?_, by decide +kernel, by decide⟩
  intro t
  refine ⟨?_, _, _, rfl, rfl, ?_, ?_, rfl, ?_, ⟨0, by decide, rfl⟩, audio_residue_ready t _ rfl⟩
  · cases t <;> exact inv_of_check (by decide +kernel)
  · cases t <;> decide
  · decide +kernel
  · cases t <;> decide +kernel

/-- The residue of `audioState` decoded for its two channels, the second silent. -/
def runState (t : ResType) : State :=
  { audioState t 2 8 (.residuePayload 0) (hex [0x1C]) with noResidue := [false, true] }

/-- What the passes give there: entries 1 and 3 in the one vector, and for type 2 in the interleaved one; with a book of lookup 0 in
place of book 1, the check of the book fails after the classification codeword. -/
theorem witness_ResiduePayloads_run :
    (∀ t : ResType, ∃ rc, (runState t).residues = [rc] ∧
      (match (runState t).residueRun 0 rc [0, 1] with
        | .ok w r => decide (r.pos = 5 ∧ (w.out.headD []).length = (if t = .t2 then 8 else 4)
            ∧ (w.out.headD []).take 2 = (if t = .t0 then [quarters 4, quarters 4] else [quarters 4, quarters (-4)]))
        | _ => false) = true)
    ∧ (∃ rc, (runState .t1).residues = [rc] ∧
      (match { runState .t1 with codebooks := [book0, book0] }.residueRun 0 rc [0, 1] with
        | .bad c k r => decide (c = .cbNoVq ∧ k = 1 ∧ r.pos = 1)
        | _ => false) = true) := by
  refine ⟨fun t => ⟨_, rfl, ?_⟩, _, rfl, by decide +kernel⟩
  cases t <;> decide +kernel

theorem witness_ClassificationDigits : ∃ radix n temp : Nat, 1 ≤ radix ∧ classDigits radix n temp [] = [1, 3] :=
  ⟨4, 2, 7, by decide⟩

theorem witness_PartitionAdds :
    (1 ≤ 2 ∧ (∀ k < ([F32.one, F32.one] : List F32).length, 1 + k * 2 < ([F32.zero, F32.zero, F32.zero, F32.zero] : List F32).length)
      ∧ (∃ k < ([F32.one, F32.one] : List F32).length, ([F32.zero, F32.zero, F32.zero, F32.zero] : List F32).length ≤ 2 + k * 2))
    ∧ ([book0][0]? = some book0 ∧ book0.lookup = 0)
    ∧ (let b := { book1 with dims := 0 }
       b.lookup ≠ 0 ∧ b.dims = 0)
    ∧ book1.lookup ≠ 0 ∧ book1.dims = 2
    ∧ VectorsRead [book1] 0 { bytes := hex [0x0E], pos := 0, exhausted := 0, clamped := 0 }
        [[quarters 4, quarters (-4)], [quarters 4, quarters 4]] { bytes := hex [0x0E], pos := 4, exhausted := 0, clamped := 0 }
    ∧ (∀ ty, (∀ j < 2, ∀ t < 2, partitionPlace ty 3 4 2 j t < (List.replicate 7 F32.zero).length) ∧ 2 = partitionVectors ty 4 2)
    ∧ 2 = partitionVectors .t0 5 2 ∧ 2 = partitionVectors .t1 3 2 :=
  ⟨⟨by decide, by decide, 1, by decide⟩, by decide +kernel, by decide +kernel, by decide +kernel, by decide +kernel,
    ⟨{ bytes := hex [0x0E], pos := 2, exhausted := 0, clamped := 0 }, by decide +kernel,
      { bytes := hex [0x0E], pos := 4, exhausted := 0, clamped := 0 }, by decide +kernel, rfl⟩,
    by rintro (_ | _ | _) <;> decide, by decide, by decide⟩

/-- A partition of two vectors that ends with the second one: a missing leaf after one vector, and a vector past the end. -/
theorem witness_PartitionAdds_error :
    VectorsRead [bookGap] 0 { bytes := hex [0x0D], pos := 0, exhausted := 0, clamped := 0 } [[quarters (-4), quarters 4]]
        { bytes := hex [0x0D], pos := 2, exhausted := 0, clamped := 0 }
    ∧ vqDecode [bookGap] 0 { bytes := hex [0x0D], pos := 2, exhausted := 0, clamped := 0 }
        = .bad .huffInvalid 0 { bytes := hex [0x0D], pos := 4, exhausted := 0, clamped := 0 }
    ∧ (∀ ty, (∀ j < 1, ∀ t < 2, partitionPlace ty 0 4 2 j t < 4) ∧ 1 < partitionVectors ty 4 2)
    ∧ (∀ ty, (∀ j < 1, ∀ t < 2, partitionPlace ty 0 4 2 j t < 3) ∧ ∃ t < 2, 3 ≤ partitionPlace ty 0 4 2 1 t)
    ∧ vqDecode [book1] 0 { bytes := hex [0x0E], pos := 2, exhausted := 0, clamped := 0 }
        = .ok [quarters 4, quarters 4] { bytes := hex [0x0E], pos := 4, exhausted := 0, clamped := 0 } :=
  ⟨⟨_, by decide +kernel, rfl⟩, by decide +kernel, by rintro (_ | _ | _) <;> decide,
    by rintro (_ | _ | _) <;> refine ⟨by decide, 1, by decide, by decide⟩, by decide +kernel⟩

theorem witness_MappingUnit :
    mapF.wf 2 = true ∧ mappingError 2 2 3 mapF = none
      ∧ mappingError 2 2 3 { mapF with coupling := some [(1, 1)] } = some .mapCoupling
      ∧ mappingError 2 2 3 { mapF with reserved := 1 } = some .mapReserved
      ∧ mappingError 2 2 3 { mapF with mux := [0, 2] } = some .mapMux
      ∧ mappingError 2 1 3 mapF = some .mapFloor ∧ mappingError 2 2 2 mapF = some .mapResidue
      ∧ (placed .hdrSetup .mapping []).Inv ∧ (placed .hdrSetup .mapping []).Unclamped :=
  ⟨by decide, by decide, by decide, by decide, by decide, by decide, by decide, inv_of_check (by decide +kernel),
    unclamped_of_check (by decide)⟩

theorem witness_ModeUnit :
    (1 : BitVec 8).toNat < { placed .hdrSetup .mode [] with nMappings := 2 }.nMappings
      ∧ { placed .hdrSetup .mode [] with nMappings := 2 }.nMappings ≤ (2 : BitVec 8).toNat ∧ (placed .hdrSetup .mode []).Inv :=
  ⟨by decide, by decide, inv_of_check (by decide +kernel)⟩

theorem witness_AudioPacketHead :
    (let s := audioState .t1 1 8 .packet (hex [0])
     0 < s.nModes ∧ s.modes[0]?.isSome = true ∧ s.nModes ≤ 1)
    ∧ (audioState .t1 1 8 .packet (hex [0])).Inv ∧ (audioState .t1 1 8 .packet (hex [0])).Unclamped
    ∧ (audioState .t1 1 8 .window (hex [0])).Inv :=
  ⟨by decide, inv_of_check (by decide +kernel), unclamped_of_check (by decide +kernel), inv_of_check (by decide +kernel)⟩

theorem witness_Propagation :
    (0 < [true, false].length ∧ 1 < [true, false].length ∧ (propagate [] [true, false]).getD 1 false = false)
      ∧ ((propagate [] [true, true]).getD 0 false = true ∧ (propagate [] [true, true]).getD 1 false = true)
      ∧ ∃ t, step { audioState .t1 2 8 .curves [] with floorUnused := [true, true], noResidue := [true, true] } = .next t
          ∧ decide (t.phase ≠ .error) = true :=
  ⟨by decide, by decide, of_nextIs (by decide +kernel)⟩

theorem witness_DecouplingAndSpectrum :
    (let s := { audioState .t1 2 8 .couple [] with
                floorUnused := [true, false]
                frame := { Frame.start 2 0 8 false with
                  floor := [[], List.replicate 4 F32.one], residue := [List.replicate 4 F32.one, List.replicate 4 F32.one] } }
     s.hostQ = [] ∧ s.phase.busy = true ∧ s.seq = .couple ∧ s.frameMapping.isSome = true
       ∧ s.floorUnused.getD 0 false = true ∧ s.floorUnused.getD 1 false = false ∧ (s.frame.floor.getD 1 [])[3]? = some F32.one
       ∧ nextIs (step s) (fun t => decide ((t.frame.residue.getD 1 [])[3]? = some F32.one)) = true)
    ∧ (let rows := [[quarters 4], [quarters (-4)], []]
       0 < rows.length ∧ 1 < rows.length ∧ (0 : Nat) ≠ 1 ∧ (2 : Nat) ≠ 0 ∧ (2 : Nat) ≠ 1
         ∧ (rows.getD 0 [])[0]? = some (quarters 4) ∧ (rows.getD 1 [])[0]? = some (quarters (-4)))
    ∧ (quarters 4).gtZero = true ∧ F32.zero.gtZero = false := by decide +kernel

/-- A core before its synthesis, with a block of this size before it. -/
def synthState (prev n : Nat) : State :=
  { audioState .t1 1 n .synth [] with
    prevN := prev
    carry := [List.replicate (prev / 2) F32.one]
    frame := { Frame.start 1 0 n false with spectrum := [List.replicate (n / 2) F32.zero] } }

theorem witness_SynthesisStep :
    (let s := synthState 16 8
     s.hostQ = [] ∧ s.phase.busy = true ∧ s.seq = .synth ∧ s.frame.spectrum.length = s.cfg.channels ∧ s.prevN ≠ 0
       ∧ nextIs (step s) (fun t => decide (5 < t.frame.outLen)) = true
       ∧ 5 < s.prevN / 2 ∧ s.prevN / 4 ≤ s.frame.n / 4 + 5 ∧ s.frame.n / 4 + 5 < s.frame.n / 2 + s.prevN / 4
       ∧ ¬(s.prevN / 4 ≤ s.frame.n / 4 + 1 ∧ s.frame.n / 4 + 1 < s.frame.n / 2 + s.prevN / 4))
    ∧ (let s := synthState 8 16
       nextIs (step s) (fun t => decide (5 < t.frame.outLen)) = true
         ∧ s.prevN / 2 ≤ 5 ∧ s.prevN / 4 ≤ s.frame.n / 4 + 5 ∧ s.frame.n / 4 + 5 < s.frame.n / 2 + s.prevN / 4)
    ∧ (synthState 0 8).prevN = 0 ∧ nextIs (step (synthState 0 8)) (fun t => decide (1 < t.frame.outLen)) = true
    ∧ (4 ∣ 256 ∧ 256 ≤ 256 ∧ 4 ∣ 2048 ∧ 256 ≤ 2048)
    ∧ (let b := windowBounds 2048 256 true false false
       b.ls ≤ b.le ∧ b.le ≤ b.rs ∧ b.rs ≤ b.re ∧ 447 < b.ls ∧ b.ls ≤ 448 ∧ 575 < b.le ∧ b.le ≤ 576 ∧ 1471 < b.rs ∧ b.rs ≤ 1472
         ∧ 1599 < b.re ∧ b.re ≤ 1600)
    ∧ F32.one.canonical = true ∧ F32.one.isFinite = true
    ∧ ∀ x ∈ [F32.zero, .fin true 0 0], x.isZero = true := by
  decide +kernel

/-- A core that emits the last two of three samples, before a sink with this room. -/
def emitState (room : Option Nat) : State :=
  { audioState .t1 1 8 (.emit 1) [] with
    sinkRoom := room, frame := { Frame.start 1 0 8 false with outbuf := [1, 2, 3], outLen := 3 } }

theorem witness_Emission :
    (let s := emitState (some 2)
     s.hostQ = [] ∧ s.phase.busy = true ∧ s.seq = .emit 1 ∧ s.packetNo + 1 < 2 ^ 32
       ∧ ∀ n ∈ s.sinkRoom.toList, (s.frame.outbuf.drop 1).length ≤ n)
    ∧ (emitState none).sinkRoom = none
    ∧ (let s := emitState (some 1)
       s.sinkRoom = some 1 ∧ 1 < (s.frame.outbuf.drop 1).length) := by decide +kernel

theorem witness_Pcm16 :
    32767 * 2 ^ 134 ≤ F32.scaled false (2 ^ 23) 126 ∧ F32.scaled true (2 ^ 23) 126 ≤ -32768 * 2 ^ 134
      ∧ (-32768 * 2 ^ 134 ≤ F32.scaled false 3 133 ∧ F32.scaled false 3 133 ≤ 32767 * 2 ^ 134
        ∧ (2 * F32.scaled false 3 133 - (pcm16 (.fin false 3 133)).toInt * 2 ^ 135).natAbs = 2 ^ 134) := by decide +kernel

/-- A core with this phase and one host write. -/
def hostState (p : Phase) (addr : Nat) (v : Word) : State :=
  { placed p .boundary [] with hostQ := [{ addr := addr, value := v }] }

theorem witness_HostControl :
    ((hostState .audio 0 3).hostTurn = true ∧ (3 : Word).getLsbD 1 = true ∧ (hostState .audio 0 3).waitsOnSource = false)
      ∧ ((hostState .idle 0 1).hostTurn = true ∧ (1 : Word).getLsbD 1 = false ∧ (1 : Word).getLsbD 0 = true
        ∧ (hostState .idle 0 1).phase = .idle)
      ∧ ((hostState .done 0 1).hostTurn = true ∧ (hostState .done 0 1).phase ≠ .idle)
      ∧ ((hostState .idle 0 0xFFFFFFFC).hostTurn = true ∧ (0xFFFFFFFC : Word).getLsbD 1 = false
        ∧ (0xFFFFFFFC : Word).getLsbD 0 = false)
      ∧ ((hostState .idle 4 1).hostTurn = true ∧ 4 % 4 = 0 ∧ 4 ≠ (hostState .idle 4 1).params.regsBase)
      ∧ ((hostState .idle 2 1).hostTurn = true ∧ 2 % 4 ≠ 0)
      ∧ (let s := { hostState .idle 4 1 with params := { defaultParams with regsBase := 8 } }
         s.hostTurn = true ∧ 4 < s.params.regsBase ∧ 4 ≠ s.params.regsBase)
      ∧ (let s := { pageState .audio false (pageBytes.take 10) [] with hostQ := [{ addr := 0, value := 2 }] }
         s.hostTurn = true ∧ s.waitsOnSource = true ∧ (0 : Nat) = s.params.regsBase ∧ (2 : Word).getLsbD 1 = true) := by
  decide +kernel

theorem witness_HostReads :
    (let s := writeCtrl 1 State.reset
     s.Inv ∧ s.Unclamped ∧ s.seq = .boundary ∧ s.phase.busy = true ∧ s.params.regsBase % 4 = 0 ∧ s.cfg.e0 < 16 ∧ s.cfg.e1 < 16
       ∧ 0x17 < 0x18)
      ∧ (hostState .done 0 0).phase.busy = false :=
  ⟨⟨inv_of_check (by decide +kernel), unclamped_of_check (by decide), rfl, rfl, rfl, by decide, by decide, by decide⟩, rfl⟩

theorem witness_InvStep :
    ∃ s t, s.Inv ∧ s.Unclamped ∧ step s = .next t ∧ t.phase = .hdrComment := by
  obtain ⟨t, h, ht⟩ := of_nextIs (o := step (placed .hdrId .packet idPacket)) (p := fun t => decide (t.phase = .hdrComment))
    (by decide +kernel)
  exact ⟨_, t, inv_of_check (by decide +kernel), unclamped_of_check (by decide), h, of_decide_eq_true ht⟩

/-- The same state and step meet the hypotheses of NoReadClamped, PhaseMoves and StreamMovesForward; it is not one that emits. -/
theorem witness_NoReadClamped_PhaseMoves_StreamMovesForward :
    ∃ s t, s.Inv ∧ s.Unclamped ∧ step s = .next t ∧ ∀ k, s.seq ≠ .emit k := by
  obtain ⟨t, h, _⟩ := of_nextIs (o := step (placed .hdrId .packet idPacket)) (p := fun _ => true) (by decide +kernel)
  exact ⟨_, t, inv_of_check (by decide +kernel), unclamped_of_check (by decide), h, fun _ hk => by cases hk⟩

theorem witness_ConfigurationReadOnly :
    ∃ s t, s.Inv ∧ step s = .next t ∧ s.phase = .audio ∧ t.phase = .audio ∧ s.nModes = 1 := by
  obtain ⟨t, h, ht⟩ := of_nextIs (o := step (audioState .t1 1 8 .packet (hex [0]))) (p := fun t => decide (t.phase = .audio))
    (by decide +kernel)
  exact ⟨_, t, inv_of_check (by decide +kernel), h, rfl, of_decide_eq_true ht, rfl⟩

theorem witness_AbortKeeps : ∃ s t, s.Inv ∧ step s = .next t ∧ s.phase ≠ .error ∧ t.phase = .error := by
  obtain ⟨t, h, ht⟩ := of_nextIs (o := step (audioState .t1 1 8 .packet (hex [1]))) (p := fun t => decide (t.phase = .error))
    (by decide +kernel)
  exact ⟨_, t, inv_of_check (by decide +kernel), h, (by decide), of_decide_eq_true ht⟩

theorem witness_UnitLength :
    ∃ t, (placed .hdrSetup .codebook (hex [0x42, 0x43, 0x56, 1, 0, 2, 0, 0])).Inv
      ∧ (placed .hdrSetup .codebook (hex [0x42, 0x43, 0x56, 1, 0, 2, 0, 0])).Unclamped
      ∧ (placed .hdrSetup .codebook (hex [0x42, 0x43, 0x56, 1, 0, 2, 0, 0])).ctx = some (.codebook 0)
      ∧ Instr.wf (.codebook 0) (.codebook 1 2) = true ∧ fieldsOnly (.codebook 1 2) = true
      ∧ exec (.codebook 1 2) (placed .hdrSetup .codebook (hex [0x42, 0x43, 0x56, 1, 0, 2, 0, 0])) = .next t ∧ t.phase ≠ .error := by
  obtain ⟨t, h, ht⟩ := of_nextIs
    (o := exec (.codebook 1 2) (placed .hdrSetup .codebook (hex [0x42, 0x43, 0x56, 1, 0, 2, 0, 0])))
    (p := fun t => decide (t.phase ≠ .error)) (by decide +kernel)
  exact ⟨t, inv_of_check (by decide +kernel), unclamped_of_check (by decide), rfl, rfl, rfl, h, of_decide_eq_true ht⟩

end Sys2Proof.Tests
end

section
/-! SUPPORT. The numeric record (00_scope.md R10): what `roundHalfEven` and `F32.round` answer, rounding as the nearest canonical
number in units of `2^-149`, and `fadd`, `fsub` and `fmul` as the exact result rounded once. -/

namespace Sys2Proof

/-! ### The significant bits of a number and the half-even quotient -/

theorem two_pow_ilog_le {m : Nat} (hm : 0 < m) : 2 ^ ilog m ≤ 2 * m := by
  have h := Nat.log2_self_le hm.ne'
  rw [ilog, if_neg hm.ne', pow_succ]
  omega

theorem lt_two_pow_ilog {m : Nat} (hm : 0 < m) : m < 2 ^ ilog m := by
  rw [ilog, if_neg hm.ne']
  exact Nat.lt_log2_self

/-- `roundHalfEven m d` is within half a unit of `m / 2^d`, and even where it is half a unit away. -/
theorem roundHalfEven_spec (m d : Nat) :
    2 * m ≤ (2 * roundHalfEven m d + 1) * 2 ^ d ∧ 2 * roundHalfEven m d * 2 ^ d ≤ 2 * m + 2 ^ d
      ∧ (2 * m = (2 * roundHalfEven m d + 1) * 2 ^ d ∨ 2 * roundHalfEven m d * 2 ^ d = 2 * m + 2 ^ d →
          roundHalfEven m d % 2 = 0) := by
  have hdiv : 2 ^ d * (m >>> d) + m % 2 ^ d = m := by rw [Nat.shiftRight_eq_div_pow]; exact Nat.div_add_mod m (2 ^ d)
  have hlt : m % 2 ^ d < 2 ^ d := Nat.mod_lt _ (by positivity)
  unfold roundHalfEven
  generalize m >>> d = q at *
  generalize m % 2 ^ d = r at *
  generalize 2 ^ d = u at *
  have hup : (2 * q + 1) * u = 2 * (u * q) + u := by ring
  have hdown : 2 * q * u = 2 * (u * q) := by ring
  have hup' : (2 * (q + 1) + 1) * u = 2 * (u * q) + 3 * u := by ring
  have hdown' : 2 * (q + 1) * u = 2 * (u * q) + 2 * u := by ring
  dsimp only
  split
  case isTrue h => rw [hup', hdown']; omega
  case isFalse h => rw [hup, hdown]; omega

/-! ### A rational number rounded to a multiple of `2^e` -/

/-- `q` is the integer nearest to `x / 2^e`, the even one of two that are equally near. -/
def RoundedAt (x : ℚ) (q e : Nat) : Prop :=
  |x - q * 2 ^ e| ≤ 2 ^ e / 2 ∧ (|x - q * 2 ^ e| = 2 ^ e / 2 → q % 2 = 0)

/-- A number that is a multiple of the unit is rounded to itself. -/
theorem roundedAt_self (q e : Nat) : RoundedAt (q * 2 ^ e) q e := by
  have hu : (0 : ℚ) < 2 ^ e / 2 := by positivity
  simpa [RoundedAt] using ⟨hu.le, fun h => absurd h hu.ne⟩

theorem roundedAt_roundHalfEven (m d e : Nat) : RoundedAt (m * 2 ^ e / 2 ^ d) (roundHalfEven m d) e := by
  obtain ⟨hlo, hhi, htie⟩ := roundHalfEven_spec m d
  have hu : (0 : ℚ) < 2 ^ e := by positivity
  have hd : (0 : ℚ) < 2 ^ d := by positivity
  have hc : (0 : ℚ) < 2 ^ e / (2 * 2 ^ d) := by positivity
  have hdist : (m * 2 ^ e / 2 ^ d - roundHalfEven m d * 2 ^ e : ℚ)
      = (2 * m - 2 * roundHalfEven m d * 2 ^ d) * (2 ^ e / (2 * 2 ^ d)) := by field_simp
  have hhalf : (2 ^ e / 2 : ℚ) = 2 ^ d * (2 ^ e / (2 * 2 ^ d)) := by field_simp
  rw [RoundedAt, hdist, abs_mul, abs_of_pos hc, hhalf, mul_le_mul_iff_left₀ hc, mul_left_inj' hc.ne']
  generalize roundHalfEven m d = q at *
  have hlo' : (2 * m : ℚ) ≤ (2 * q + 1) * 2 ^ d := by exact_mod_cast hlo
  have hhi' : (2 * q * 2 ^ d : ℚ) ≤ 2 * m + 2 ^ d := by exact_mod_cast hhi
  refine ⟨abs_le.2 ⟨by linarith, by linarith⟩, fun h => htie ?_⟩
  rcases (abs_eq hd.le).1 h with h | h
  · left
    have : (2 * m : ℚ) = (2 * q + 1) * 2 ^ d := by linarith
    exact_mod_cast this
  · right
    have : (2 * q * 2 ^ d : ℚ) = 2 * m + 2 ^ d := by linarith
    exact_mod_cast this

section
variable {x : ℚ} {q e : Nat}

/-- The two bounds of a rounded quotient, free of the absolute value. -/
theorem RoundedAt.bounds (h : RoundedAt x q e) : (q - 1 / 2) * 2 ^ e ≤ x ∧ x ≤ (q + 1 / 2) * 2 ^ e := by
  have := abs_le.1 h.1
  constructor <;> linarith

/-- A number below `2^k` units is rounded to at most `2^k`. -/
theorem RoundedAt.le_two_pow (h : RoundedAt x q e) {k : Nat} (hx : x < 2 ^ (e + k)) : q ≤ 2 ^ k := by
  have hu : (0 : ℚ) < 2 ^ e := by positivity
  have hlt : ((q : ℚ) - 1 / 2) * 2 ^ e < 2 ^ k * 2 ^ e := h.bounds.1.trans_lt (by rwa [← pow_add, add_comm k])
  have : (q : ℚ) < 2 ^ k + 1 := by linarith [(mul_lt_mul_iff_left₀ hu).1 hlt]
  exact Nat.lt_succ_iff.1 (by exact_mod_cast this)

/-- A number of at least `2^k` units is rounded to at least `2^k`. -/
theorem RoundedAt.two_pow_le (h : RoundedAt x q e) {k : Nat} (hx : 2 ^ (e + k) ≤ x) : 2 ^ k ≤ q := by
  have hu : (0 : ℚ) < 2 ^ e := by positivity
  have hle : (2 : ℚ) ^ k * 2 ^ e ≤ (q + 1 / 2) * 2 ^ e := by
    rw [← pow_add, add_comm k]; exact hx.trans h.bounds.2
  have : (2 : ℚ) ^ k < q + 1 := by linarith [(mul_le_mul_iff_left₀ hu).1 hle]
  exact Nat.lt_succ_iff.1 (by exact_mod_cast this)

/-- No other multiple of the unit is nearer, and one that is as near makes the quotient even. -/
theorem RoundedAt.nearest_multiple (h : RoundedAt x q e) (k : ℤ) :
    |x - q * 2 ^ e| ≤ |x - k * 2 ^ e|
      ∧ (|x - q * 2 ^ e| = |x - k * 2 ^ e| → (q * 2 ^ e : ℚ) ≠ k * 2 ^ e → q % 2 = 0) := by
  obtain ⟨hhalf, heven⟩ := h
  have hu : (0 : ℚ) < 2 ^ e := by positivity
  by_cases hk : (q : ℤ) = k
  · have hk' : (q : ℚ) = k := by exact_mod_cast hk
    simp [hk']
  · have hone : (1 : ℚ) ≤ |(q - k : ℚ)| := by exact_mod_cast Int.one_le_abs (sub_ne_zero.2 hk)
    have hapart : (2 ^ e : ℚ) ≤ |x - q * 2 ^ e| + |x - k * 2 ^ e| :=
      calc (2 ^ e : ℚ) ≤ |(q - k : ℚ)| * 2 ^ e := le_mul_of_one_le_left hu.le hone
        _ = |((q - k) * 2 ^ e : ℚ)| := by rw [abs_mul, abs_of_pos hu]
        _ = |(x - k * 2 ^ e) - (x - q * 2 ^ e)| := by congr 1; ring
        _ ≤ |x - q * 2 ^ e| + |x - k * 2 ^ e| := by rw [add_comm]; exact abs_sub _ _
    exact ⟨by linarith, fun heq _ => heven (le_antisymm hhalf (by linarith))⟩

end

/-! ### Finite values in units of `2^-149` -/

theorem F32.scaled_cast (s : Bool) (n f : Nat) : (F32.scaled s n f : ℚ) = (if s then -1 else 1) * (n * 2 ^ f) := by
  cases s <;> simp [F32.scaled, Nat.shiftLeft_eq]

theorem F32.scaled_not (s : Bool) (n f : Nat) : F32.scaled (!s) n f = -F32.scaled s n f := by
  cases s <;> simp [F32.scaled]

theorem F32.val_fin (s : Bool) (n f : Nat) : (F32.fin s n f).val = F32.scaled s n f / 2 ^ 149 := by
  rw [F32.val, F32.scaled_cast, zpow_sub₀ two_ne_zero, zpow_natCast, zpow_ofNat, mul_div_assoc', mul_assoc]

theorem F32.scaled_eq_zero {s : Bool} {n f : Nat} : F32.scaled s n f = 0 ↔ n = 0 := by
  cases s <;> simp [F32.scaled, Nat.shiftLeft_eq]

theorem F32.isFinite_iff {a : F32} : a.isFinite = true ↔ ∃ s m e, a = .fin s m e := by
  cases a <;> simp [F32.isFinite]

theorem F32.canonical_fin {s : Bool} {n f : Nat} :
    (F32.fin s n f).canonical = true ↔ n < 2 ^ 24 ∧ f ≤ 253 ∧ (f = 0 ∨ 2 ^ 23 ≤ n) := by
  simp [F32.canonical]

/-- A canonical number is a multiple of `2^e`, or it is below the numbers that are written with exponent `e`. -/
theorem F32.scaled_multiple_or_lt {s : Bool} {n f : Nat} (h : n < 2 ^ 24) (e : Nat) :
    (∃ k : ℤ, (F32.scaled s n f : ℚ) = k * 2 ^ e) ∨ f < e ∧ (F32.scaled s n f : ℚ) < 2 ^ (e + 23) := by
  rcases le_or_gt e f with hef | hfe
  · obtain ⟨j, rfl⟩ := Nat.exists_eq_add_of_le hef
    exact .inl ⟨F32.scaled s n j, by simp only [F32.scaled_cast, pow_add]; ring⟩
  · refine .inr ⟨hfe, ?_⟩
    have hn : (n : ℚ) < 2 ^ 24 := by exact_mod_cast h
    calc (F32.scaled s n f : ℚ) ≤ n * 2 ^ f := by
          rw [F32.scaled_cast]; exact mul_le_of_le_one_left (by positivity) (by split <;> norm_num)
      _ < 2 ^ 24 * 2 ^ f := by gcongr
      _ = 2 ^ (f + 1 + 23) := by ring
      _ ≤ 2 ^ (e + 23) := pow_le_pow_right₀ one_le_two (by omega)

/-- No canonical number is nearer to `x` units of `2^-149` than `q * 2^e`, and another that is as near makes `q` even
(00_scope.md R10). -/
def F32.Nearest (x : ℚ) (q e : Nat) : Prop :=
  ∀ (s : Bool) (n f : Nat), (F32.fin s n f).canonical = true →
    |x - q * 2 ^ e| ≤ |x - F32.scaled s n f|
      ∧ (|x - q * 2 ^ e| = |x - F32.scaled s n f| → (q * 2 ^ e : ℚ) ≠ F32.scaled s n f → q % 2 = 0)

/-- Rounding at the exponent at which a number is written finds a nearest canonical number. -/
theorem RoundedAt.nearest {x : ℚ} {q e : Nat} (h : RoundedAt x q e) (he : e = 0 ∨ 2 ^ (e + 23) ≤ x) :
    F32.Nearest x q e := by
  intro s n f hy
  obtain ⟨hn, -, -⟩ := F32.canonical_fin.1 hy
  rcases F32.scaled_multiple_or_lt (s := s) (f := f) hn e with ⟨k, hk⟩ | ⟨hfe, hlt⟩
  · rw [hk]; exact h.nearest_multiple k
  · have hx : 2 ^ (e + 23) ≤ x := he.resolve_left (by omega)
    have hstrict : |x - q * 2 ^ e| < |x - F32.scaled s n f| :=
      calc |x - q * 2 ^ e| ≤ |x - (2 ^ 23 : ℤ) * 2 ^ e| := (h.nearest_multiple (2 ^ 23)).1
        _ = x - 2 ^ (e + 23) := by
          have heq : (((2 ^ 23 : ℤ) : ℚ)) * 2 ^ e = 2 ^ (e + 23) := by push_cast; ring
          rw [heq, abs_of_nonneg (sub_nonneg.2 hx)]
        _ < x - F32.scaled s n f := by linarith
        _ ≤ |x - F32.scaled s n f| := le_abs_self _
    exact ⟨hstrict.le, fun heq => absurd heq hstrict.ne⟩

/-! ### `rnd32` -/

/-- At the unit that `F32.round` takes, `m * 2^sh` has a significand of at most 24 bits, and of 24 unless the unit is the least. -/
theorem F32.roundExp_bounds {m : Nat} (hm : 0 < m) {sh : Int} {e : Nat} (he : F32.roundExp (ilog m) sh = e) :
    (m : ℚ) * 2 ^ sh < 2 ^ (e + 24) ∧ (e = 0 ∨ 2 ^ (e + 23) ≤ (m : ℚ) * 2 ^ sh) := by
  have htwo : (2 : ℚ) ≠ 0 := two_ne_zero
  have hmax : max 0 ((ilog m : Int) + sh - 24) = e := he
  constructor
  · calc (m : ℚ) * 2 ^ sh < 2 ^ ilog m * 2 ^ sh := by gcongr; exact_mod_cast lt_two_pow_ilog hm
      _ = 2 ^ ((ilog m : Int) + sh) := by rw [zpow_add₀ htwo, zpow_natCast]
      _ ≤ 2 ^ ((e + 24 : Nat) : Int) := zpow_le_zpow_right₀ one_le_two (by push_cast; omega)
      _ = 2 ^ (e + 24) := zpow_natCast 2 (e + 24)
  · refine (Nat.eq_zero_or_pos e).imp_right fun hpos => ?_
    have hlen : ((e + 24 : Nat) : Int) = (ilog m : Int) + sh := by push_cast; omega
    have htop : (2 : ℚ) ^ (e + 24) ≤ 2 * ((m : ℚ) * 2 ^ sh) :=
      calc (2 : ℚ) ^ (e + 24) = 2 ^ ilog m * 2 ^ sh := by
            rw [← zpow_natCast, hlen, zpow_add₀ htwo, zpow_natCast]
        _ ≤ (2 * m) * 2 ^ sh := by gcongr; exact_mod_cast two_pow_ilog_le hm
        _ = 2 * ((m : ℚ) * 2 ^ sh) := by ring
    rw [show e + 24 = e + 23 + 1 from rfl, pow_succ] at htop
    linarith

/-- The quotient that `F32.round` takes, exact or half-even, is the rounded one. -/
theorem F32.roundedAt_quotient (m : Nat) (sh : Int) (e : Nat) :
    RoundedAt ((m : ℚ) * 2 ^ sh)
      (if (e : Int) - sh ≤ 0 then m <<< (-((e : Int) - sh)).toNat else roundHalfEven m ((e : Int) - sh).toNat) e := by
  have htwo : (2 : ℚ) ≠ 0 := two_ne_zero
  split
  case isTrue h =>
    obtain ⟨k, hk⟩ := Int.eq_ofNat_of_zero_le (show 0 ≤ -((e : Int) - sh) by omega)
    have hx : (m : ℚ) * 2 ^ sh = ((m <<< k : Nat) : ℚ) * 2 ^ e := by
      rw [show sh = k + e by omega, zpow_add₀ htwo, zpow_natCast, zpow_natCast, Nat.shiftLeft_eq]
      push_cast; ring
    rw [hk, Int.toNat_natCast, hx]
    exact roundedAt_self _ e
  case isFalse h =>
    obtain ⟨d, hd⟩ := Int.eq_ofNat_of_zero_le (show 0 ≤ (e : Int) - sh by omega)
    have hx : (m : ℚ) * 2 ^ sh = m * 2 ^ e / 2 ^ d := by
      rw [show sh = e - d by omega, zpow_sub₀ htwo, zpow_natCast, zpow_natCast, mul_div_assoc]
    rw [hd, Int.toNat_natCast, hx]
    exact roundedAt_roundHalfEven m d e

/-- What `F32.round` answers for `m * 2^sh`: with the significand `q` rounded at the unit `2^e`, the number `q * 2^e`, written
with the next unit when the significand carries to 25 bits, or an infinity when the exponent passes 253. -/
theorem F32.round_cases (neg : Bool) {m : Nat} (sh : Int) (hm : 0 < m) :
    ∃ q e : Nat, RoundedAt ((m : ℚ) * 2 ^ sh) q e
      ∧ (m : ℚ) * 2 ^ sh < 2 ^ (e + 24) ∧ (e = 0 ∨ 2 ^ (e + 23) ≤ (m : ℚ) * 2 ^ sh)
      ∧ (e ≤ 253 ∧ q < 2 ^ 24 ∧ F32.round neg m sh = .fin neg q e
        ∨ e ≤ 252 ∧ q = 2 ^ 24 ∧ F32.round neg m sh = .fin neg (2 ^ 23) (e + 1)
        ∨ (253 < e ∨ e = 253 ∧ q = 2 ^ 24) ∧ F32.round neg m sh = .inf neg) := by
  obtain ⟨e, he⟩ := Int.eq_ofNat_of_zero_le (show 0 ≤ F32.roundExp (ilog m) sh from le_max_left _ _)
  obtain ⟨hlt, hge⟩ := F32.roundExp_bounds hm he
  have hq := F32.roundedAt_quotient m sh e
  refine ⟨_, e, hq, hlt, hge, ?_⟩
  have hle := hq.le_two_pow hlt
  simp only [F32.round, if_neg hm.ne', he]
  generalize (if (e : Int) - sh ≤ 0 then _ else _ : Nat) = q at *
  split_ifs with hcarry hover hover
  · exact .inr (.inr ⟨by omega, rfl⟩)
  · exact .inr (.inl ⟨by omega, hcarry, by simp⟩)
  · exact .inr (.inr ⟨by omega, rfl⟩)
  · exact .inl ⟨by omega, by omega, by simp⟩

/-- The quotient carries past the largest number exactly from half a unit above it on. -/
theorem RoundedAt.overflow_iff {x : ℚ} {q e : Nat} (h : RoundedAt x q e) (hlt : x < 2 ^ (e + 24))
    (hge : e = 0 ∨ 2 ^ (e + 23) ≤ x) : (2 ^ 25 - 1) * 2 ^ 252 ≤ x ↔ 253 < e ∨ e = 253 ∧ q = 2 ^ 24 := by
  rcases lt_trichotomy e 253 with he | rfl | he
  · have hx : x < 2 ^ 24 * 2 ^ 252 := hlt.trans_le (by rw [← pow_add]; exact pow_le_pow_right₀ one_le_two (by omega))
    exact iff_of_false (not_le.2 (hx.trans (by norm_num))) (by omega)
  · have hq := h.le_two_pow hlt
    obtain ⟨hlo, hhi⟩ := h.bounds
    refine ⟨fun hx => .inr ⟨rfl, ?_⟩, fun hc => ?_⟩
    · by_contra hne
      have hnext : (2 ^ 24 : ℚ) ≤ q + 1 := by linarith
      have hnext' : 2 ^ 24 ≤ q + 1 := by exact_mod_cast hnext
      obtain rfl : q = 2 ^ 24 - 1 := by omega
      have htie : (2 ^ 253 / 2 : ℚ) ≤ |x - (2 ^ 24 - 1 : Nat) * 2 ^ 253| :=
        (by push_cast; linarith : (_ : ℚ) ≤ _).trans (le_abs_self _)
      exact absurd (h.2 (le_antisymm h.1 htie)) (by decide)
    · obtain rfl : q = 2 ^ 24 := (hc.resolve_left (by omega)).2
      push_cast at hlo
      linarith
  · have hx : 2 ^ 25 * 2 ^ 252 ≤ x :=
      (by rw [← pow_add]; exact pow_le_pow_right₀ one_le_two (by omega) : _ ≤ _).trans (hge.resolve_left (by omega))
    exact iff_of_true (hx.trans' (by norm_num)) (.inl he)

/-- A significand that carries is the same number with the next unit. -/
theorem F32.Nearest.carry {x : ℚ} {e : Nat} (h : F32.Nearest x (2 ^ 24) e) : F32.Nearest x (2 ^ 23) (e + 1) := by
  have hval : ((2 ^ 23 : Nat) : ℚ) * 2 ^ (e + 1) = ((2 ^ 24 : Nat) : ℚ) * 2 ^ e := by push_cast; ring
  intro s n f hy
  rw [hval]
  exact ⟨(h s n f hy).1, fun _ _ => by decide⟩

/-- `rnd32` in units of `2^-149`: canonical, infinite from half a unit above the largest number on, else nearest. -/
theorem F32.round_spec (neg : Bool) {m : Nat} (sh : Int) (hm : 0 < m) :
    (F32.round neg m sh).canonical = true
      ∧ ((2 ^ 25 - 1) * 2 ^ 252 ≤ (m : ℚ) * 2 ^ sh → F32.round neg m sh = .inf neg)
      ∧ ((m : ℚ) * 2 ^ sh < (2 ^ 25 - 1) * 2 ^ 252 →
          ∃ q e, F32.round neg m sh = .fin neg q e ∧ F32.Nearest ((m : ℚ) * 2 ^ sh) q e) := by
  obtain ⟨q, e, hq, hlt, hge, hcases⟩ := F32.round_cases neg sh hm
  have hover := hq.overflow_iff hlt hge
  rcases hcases with ⟨he, hq24, hr⟩ | ⟨he, rfl, hr⟩ | ⟨hbig, hr⟩ <;> rw [hr]
  · have hlead : e = 0 ∨ 2 ^ 23 ≤ q := hge.imp_right hq.two_pow_le
    exact ⟨F32.canonical_fin.2 ⟨hq24, he, hlead⟩, fun hx => absurd (hover.1 hx) (by omega),
      fun _ => ⟨q, e, rfl, hq.nearest hge⟩⟩
  · exact ⟨F32.canonical_fin.2 ⟨by decide, by omega, .inr le_rfl⟩, fun hx => absurd (hover.1 hx) (by omega),
      fun _ => ⟨2 ^ 23, e + 1, rfl, (hq.nearest hge).carry⟩⟩
  · exact ⟨rfl, fun _ => rfl, fun hx => absurd (hover.2 hbig) (not_le.2 hx)⟩

@[simp] theorem F32.round_zero (neg : Bool) (sh : Int) : F32.round neg 0 sh = .fin neg 0 0 := rfl

/-! ### The exact result and its rounding -/

theorem F32.isRnd_zero (neg : Bool) : F32.isRnd 0 (.fin neg 0 0) := by
  refine ⟨rfl, fun h => absurd h (by norm_num), fun _ => ⟨neg, 0, 0, rfl, fun h => absurd rfl h, fun y _ _ => ?_⟩⟩
  simp [F32.val]

/-- Nearest in units is nearest in value, for either sign. -/
theorem F32.Nearest.val_le {x : ℚ} {q e : Nat} (h : F32.Nearest x q e) (neg : Bool) {y : F32} (hy : y.canonical = true)
    (hfin : y.isFinite = true) {z : ℚ} (hz : z = (if neg then -1 else 1) * x / 2 ^ 149) :
    |z - (F32.fin neg q e).val| ≤ |z - y.val|
      ∧ (|z - (F32.fin neg q e).val| = |z - y.val| → (F32.fin neg q e).val ≠ y.val → q % 2 = 0) := by
  obtain ⟨s, n, f, rfl⟩ := F32.isFinite_iff.1 hfin
  have hc : (0 : ℚ) < 2 ^ 149 := by positivity
  have hdist : ∀ w : ℚ, |z - (if neg then -1 else 1) * w / 2 ^ 149| = |x - w| / 2 ^ 149 := by
    intro w
    rw [hz, ← sub_div, ← mul_sub, abs_div, abs_mul, abs_of_pos hc]
    cases neg <;> simp
  have hy' : (F32.fin s n f).val = (if neg then -1 else 1) * (F32.scaled (neg != s) n f : ℚ) / 2 ^ 149 := by
    rw [F32.val_fin]; cases neg <;> simp [F32.scaled_not]
  have hr : (F32.fin neg q e).val = (if neg then -1 else 1) * (q * 2 ^ e : ℚ) / 2 ^ 149 := by
    rw [F32.val_fin, F32.scaled_cast]
  obtain ⟨hle, htie⟩ := h (neg != s) n f hy
  rw [hr, hy', hdist, hdist, div_le_div_iff_of_pos_right hc, div_left_inj' hc.ne']
  exact ⟨hle, fun heq hne => htie heq fun hv => hne (by rw [hv])⟩

theorem F32.isRnd_round (neg : Bool) (m : Nat) (sh : Int) {x : ℚ} (hx : x = (if neg then -1 else 1) * (m * 2 ^ sh) / 2 ^ 149) :
    F32.isRnd x (F32.round neg m sh) := by
  obtain rfl | hm := Nat.eq_zero_or_pos m
  · obtain rfl : x = 0 := by simp [hx]
    exact F32.isRnd_zero neg
  obtain ⟨hcan, hinf, hfin⟩ := F32.round_spec neg sh hm
  have hpos : (0 : ℚ) < m * 2 ^ sh / 2 ^ 149 := by positivity
  have habs : |x| = m * 2 ^ sh / 2 ^ 149 := by
    rw [hx, mul_div_assoc, abs_mul, abs_of_pos hpos]; cases neg <;> simp
  have hneg : neg = decide (x < 0) := by
    rw [hx, mul_div_assoc]; cases neg <;> simp [hpos, hpos.le]
  have hlimit : ((2 ^ 25 - 1) * 2 ^ 103 : ℚ) = (2 ^ 25 - 1) * 2 ^ 252 / 2 ^ 149 := by norm_num
  have hc : (0 : ℚ) < 2 ^ 149 := by positivity
  refine ⟨hcan, fun h => ?_, fun h => ?_⟩
  · rw [habs, hlimit, div_le_div_iff_of_pos_right hc] at h
    rw [← hneg, hinf h]
  · rw [habs, hlimit, div_lt_div_iff_of_pos_right hc] at h
    obtain ⟨q, e, hr, hnear⟩ := hfin h
    refine ⟨neg, q, e, hr, fun _ => hneg, fun y hy hyfin => ?_⟩
    rw [hr]
    exact hnear.val_le neg hy hyfin hx

theorem F32.neg_val (a : F32) : a.neg.val = -a.val := by
  cases a with
  | nan => simp [F32.neg, F32.val]
  | inf s => simp [F32.neg, F32.val]
  | fin s m e => rw [F32.neg, F32.val_fin, F32.val_fin, F32.scaled_not]; push_cast; ring

/-- `fadd` of numbers in units of `2^-149`: a zero by its signs, else the exact sum rounded once. -/
theorem F32.add_fin (s t : Bool) (m e n f : Nat) :
    F32.add (.fin s m e) (.fin t n f)
      = if F32.scaled s m e + F32.scaled t n f = 0 then .fin (s && t) 0 0
        else F32.round (decide (F32.scaled s m e + F32.scaled t n f < 0))
          (F32.scaled s m e + F32.scaled t n f).natAbs 0 := rfl

theorem F32.val_add_val (s t : Bool) (m e n f : Nat) :
    (F32.fin s m e).val + (F32.fin t n f).val = ((F32.scaled s m e + F32.scaled t n f : Int) : ℚ) / 2 ^ 149 := by
  rw [F32.val_fin, F32.val_fin]; push_cast; ring

theorem F32.val_mul_val (s t : Bool) (m e n f : Nat) :
    (F32.fin s m e).val * (F32.fin t n f).val
      = (if s != t then -1 else 1) * (((m * n : Nat) : ℚ) * 2 ^ ((e : Int) + f - 149)) / 2 ^ 149 := by
  rw [F32.val_fin, F32.val_fin, F32.scaled_cast, F32.scaled_cast, zpow_sub₀ two_ne_zero, zpow_add₀ two_ne_zero,
    zpow_natCast, zpow_natCast, zpow_ofNat]
  push_cast
  cases s <;> cases t <;> simp <;> ring

theorem cast_eq_sign_mul_natAbs (v : Int) : (v : ℚ) = (if decide (v < 0) then -1 else 1) * (v.natAbs : ℚ) := by
  rw [Nat.cast_natAbs]
  rcases lt_or_ge v 0 with h | h
  · simp [h, abs_of_neg h]
  · simp [h.not_gt, abs_of_nonneg h]

theorem F32.isRnd_add {a b : F32} (ha : a.isFinite = true) (hb : b.isFinite = true) :
    F32.isRnd (a.val + b.val) (F32.add a b) := by
  obtain ⟨s, m, e, rfl⟩ := F32.isFinite_iff.1 ha
  obtain ⟨t, n, f, rfl⟩ := F32.isFinite_iff.1 hb
  rw [F32.val_add_val, F32.add_fin]
  generalize F32.scaled s m e + F32.scaled t n f = v
  split
  case isTrue hv => subst hv; simpa using F32.isRnd_zero (s && t)
  case isFalse hv =>
    refine F32.isRnd_round _ _ _ ?_
    rw [zpow_zero, mul_one, ← cast_eq_sign_mul_natAbs]

theorem F32.isRnd_sub {a b : F32} (ha : a.isFinite = true) (hb : b.isFinite = true) :
    F32.isRnd (a.val - b.val) (F32.sub a b) := by
  rw [sub_eq_add_neg, ← F32.neg_val, F32.sub]
  refine F32.isRnd_add ha ?_
  obtain ⟨t, n, f, rfl⟩ := F32.isFinite_iff.1 hb
  rfl

theorem F32.isRnd_mul {a b : F32} (ha : a.isFinite = true) (hb : b.isFinite = true) :
    F32.isRnd (a.val * b.val) (F32.mul a b) := by
  obtain ⟨s, m, e, rfl⟩ := F32.isFinite_iff.1 ha
  obtain ⟨t, n, f, rfl⟩ := F32.isFinite_iff.1 hb
  exact F32.isRnd_round _ _ _ (F32.val_mul_val s t m e n f)

theorem F32.isRnd_ofNat (n : Nat) : F32.isRnd n (F32.ofNat n) :=
  F32.isRnd_round false n 149 (by simp [zpow_ofNat])

/-! ### Zeros, infinities and NaNs -/

theorem F32.val_fin_eq_zero {s : Bool} {m e : Nat} : (F32.fin s m e).val = 0 ↔ m = 0 := by
  simp [F32.val_fin, F32.scaled_eq_zero]

theorem F32.add_of_val_eq_zero {x y : Bool} {m e n f : Nat} (h : (F32.fin x m e).val + (F32.fin y n f).val = 0) :
    F32.add (.fin x m e) (.fin y n f) = .fin (x && y) 0 0 := by
  rw [F32.val_add_val, div_eq_zero_iff, Int.cast_eq_zero] at h
  rw [F32.add_fin, if_pos (h.resolve_right (by norm_num))]

theorem F32.mul_of_val_eq_zero {x y : Bool} {m e n f : Nat} (h : (F32.fin x m e).val * (F32.fin y n f).val = 0) :
    F32.mul (.fin x m e) (.fin y n f) = .fin (x != y) 0 0 := by
  have hmn : m * n = 0 := by simpa [F32.val_fin_eq_zero] using h
  rw [F32.mul, hmn, F32.round_zero]

theorem F32.add_nan (a : F32) : F32.add a .nan = .nan := by cases a <;> rfl

theorem F32.mul_nan (a : F32) : F32.mul a .nan = .nan := by cases a <;> rfl

theorem F32.gtZero_iff (x : F32) : x.gtZero = true ↔ x = .inf false ∨ x.isFinite = true ∧ 0 < x.val := by
  cases x with
  | nan => simp [F32.gtZero, F32.isFinite]
  | inf s => cases s <;> simp [F32.gtZero, F32.isFinite]
  | fin s m e =>
    rw [F32.val_fin, F32.scaled_cast]
    cases s <;> simp [F32.gtZero, F32.isFinite, Nat.pos_iff_ne_zero]

theorem F32.inf_mul_fin (x s : Bool) (m e : Nat) :
    F32.mul (.inf x) (.fin s m e) = if m = 0 then .nan else .inf (x != s) := rfl

theorem F32.fin_mul_inf (x s : Bool) (m e : Nat) :
    F32.mul (.fin s m e) (.inf x) = if m = 0 then .nan else .inf (x != s) := by rw [F32.mul, bne_comm]

theorem F32.inf_sub_inf (x y : Bool) : F32.sub (.inf x) (.inf y) = if x = y then .nan else .inf x := by
  cases x <;> cases y <;> rfl

/-- Settles O26: the rounding from `F32.round_spec` and `F32.isRnd_round`, the special values by their cases. -/
theorem roundsToNearest : Obligations.RoundsToNearest := by
  unfold Obligations.RoundsToNearest
  refine ⟨fun neg m sh hm => ?rounding, fun a b ha hb => ⟨F32.isRnd_add ha hb, F32.isRnd_sub ha hb, F32.isRnd_mul ha hb⟩,
    F32.isRnd_ofNat, fun x y m e n f => ⟨F32.add_of_val_eq_zero, fun h => ?subZero, F32.mul_of_val_eq_zero⟩,
    fun a => ⟨rfl, F32.add_nan a, rfl, F32.add_nan a, rfl, F32.mul_nan a⟩, fun x a ha => ?infFinite,
    fun x y m e hm => ?infNonzero, fun x y => ⟨rfl, F32.inf_sub_inf x y, rfl⟩, F32.gtZero_iff⟩
  case rounding =>
    obtain ⟨hcan, hinf, hfin⟩ := F32.round_spec neg sh hm
    refine ⟨hcan, hinf, fun h => ?_⟩
    obtain ⟨q, e, hr, hnear⟩ := hfin h
    refine ⟨q, e, hr, fun q' e' hy => ?_⟩
    simpa [F32.scaled_cast] using hnear false q' e' hy
  case subZero =>
    exact F32.add_of_val_eq_zero (y := !y) (by rwa [sub_eq_add_neg, ← F32.neg_val] at h)
  case infFinite =>
    obtain ⟨s, m, e, rfl⟩ := F32.isFinite_iff.1 ha
    refine ⟨rfl, rfl, rfl, rfl, fun hz => ?_⟩
    obtain rfl : m = 0 := by simpa [F32.isZero] using hz
    exact ⟨rfl, rfl⟩
  case infNonzero =>
    rw [F32.inf_mul_fin, F32.fin_mul_inf, if_neg hm]
    exact ⟨rfl, rfl⟩

end Sys2Proof
end

section
/-! SUPPORT. What the decoding of a packet leaves alone, and what an operation that fails leaves alone, as two relations between
states that are closed under reads and writes. -/

namespace Sys2Proof.Machine

open Sys2Proof

/-- `s` without what the units and acts of a packet's decoding write: equal for two states when nothing else differs. -/
def State.outside (s : State) : State :=
  { s with
    seq := .boundary, pktBitpos := 0, warn := .clear, noResidue := [], floorUnused := [], floorUsed := []
    nCodebooks := 0, nFloors := 0, nResidues := 0, nMappings := 0, nModes := 0
    codebooks := [], floors := [], residues := [], mappings := [], modes := [], frame := .empty }

/-- `s` without what may be written before an abort: also the page record, its cursor and the source, of a page or a segment
that fails (40_ogg_demuxer.md R120, R121, R127). -/
def State.spared (s : State) : State :=
  { s.outside with srcPos := 0, src := [], pg := .empty, segCursor := 0 }

/-- The widths of a warning record, and `WARN_ANY` as its two counters say (10_state.md R36, 60_exceptions.md R354). -/
structure WarnRec.Sound (w : WarnRec) : Prop where
  exhausted : w.exhausted < 2 ^ 32
  clamp : w.clamp < 2 ^ 32
  any : w.any = decide (0 < w.exhausted ∨ 0 < w.clamp)

theorem WarnRec.Sound.add {w : WarnRec} (h : w.Sound) (e c : Nat) : (w.add e c).Sound :=
  ⟨satAdd_lt 32 _ _, satAdd_lt 32 _ _, WarnRec.add_any e c h.any⟩

/-- Between `s` and `u` bits of the packet may have been read: the cursor stays inside, and warnings are only added. -/
structure State.ReadOn (s u : State) : Prop where
  pkt : u.pkt = s.pkt
  cursor : s.pktBitpos ≤ 8 * s.pkt.length → u.pktBitpos ≤ 8 * s.pkt.length
  warn : s.warn.Sound → u.warn.Sound

theorem State.ReadOn.refl (s : State) : s.ReadOn s := ⟨rfl, id, id⟩

theorem State.ReadOn.trans {s u v : State} (h : s.ReadOn u) (k : u.ReadOn v) : s.ReadOn v where
  pkt := k.pkt.trans h.pkt
  cursor := by
    have hk := k.cursor
    rw [h.pkt] at hk
    exact hk ∘ h.cursor
  warn := k.warn ∘ h.warn

/-- From `s` to `u` units and acts of the decoding have done their work. -/
structure State.Edits (s u : State) : Prop extends State.ReadOn s u where
  kept : u.outside = s.outside

/-- From `s` to `u` an operation has gone as far as its failing check. -/
structure State.Fails (s u : State) : Prop extends State.ReadOn s u where
  kept : u.spared = s.spared
  srcPos_le : s.srcPos ≤ u.srcPos
  srcPos_lt : s.srcPos < 2 ^ 64 → u.srcPos < 2 ^ 64

section
variable {s u v : State}

theorem State.Edits.refl (s : State) : s.Edits s := ⟨.refl s, rfl⟩

theorem State.Edits.trans (h : s.Edits u) (k : u.Edits v) : s.Edits v :=
  ⟨h.toReadOn.trans k.toReadOn, k.kept.trans h.kept⟩

/-- Writes of configuration and frame state, with the cursor and the warnings as they are. -/
theorem State.Edits.write (h : s.Edits u) (hk : v.outside = u.outside) (hp : v.pktBitpos = u.pktBitpos)
    (hw : v.warn = u.warn) : s.Edits v :=
  h.trans ⟨⟨(congrArg State.pkt hk :), by rw [hp]; exact id, by rw [hw]; exact id⟩, hk⟩

/-- The reads of an operation. -/
theorem State.Edits.withReader {r : Reader} (h : s.Edits u) (hr : u.reader.Moves r) : s.Edits (u.withReader r) :=
  h.trans ⟨⟨rfl, hr.bound, fun hw => hw.add _ _⟩, rfl⟩

theorem State.Edits.skips (h : s.Edits u) (ws : List Nat) : s.Edits (u.skips ws) :=
  h.withReader (Reader.skips_moves ws _)

theorem State.Edits.params (h : s.Edits u) : u.params = s.params := (congrArg State.params h.kept :)
theorem State.Edits.phase (h : s.Edits u) : u.phase = s.phase := (congrArg State.phase h.kept :)
theorem State.Edits.err (h : s.Edits u) : u.err = s.err := (congrArg State.err h.kept :)
theorem State.Edits.view (h : s.Edits u) : u.view = s.view := (congrArg State.view h.kept :)
theorem State.Edits.out (h : s.Edits u) : u.out = s.out := (congrArg State.out h.kept :)
theorem State.Edits.srcPos (h : s.Edits u) : u.srcPos = s.srcPos := (congrArg State.srcPos h.kept :)
theorem State.Edits.packetNo (h : s.Edits u) : u.packetNo = s.packetNo := (congrArg State.packetNo h.kept :)
theorem State.Edits.pageValid (h : s.Edits u) : u.pageValid = s.pageValid := (congrArg State.pageValid h.kept :)
theorem State.Edits.pktContinuing (h : s.Edits u) : u.pktContinuing = s.pktContinuing :=
  (congrArg State.pktContinuing h.kept :)
theorem State.Edits.carry (h : s.Edits u) : u.carry = s.carry := (congrArg State.carry h.kept :)
theorem State.Edits.prevN (h : s.Edits u) : u.prevN = s.prevN := (congrArg State.prevN h.kept :)
theorem State.Edits.pageOk (h : s.Edits u) : u.pageOk ↔ s.pageOk := iff_of_eq (congrArg State.pageOk h.kept :)

theorem State.Fails.params (h : s.Fails u) : u.params = s.params := (congrArg State.params h.kept :)
theorem State.Fails.cnt (h : s.Fails u) : u.cnt = s.cnt := (congrArg State.cnt h.kept :)
theorem State.Fails.out (h : s.Fails u) : u.out = s.out := (congrArg State.out h.kept :)
theorem State.Fails.packetNo (h : s.Fails u) : u.packetNo = s.packetNo := (congrArg State.packetNo h.kept :)

theorem State.Fails.refl (s : State) : s.Fails s := ⟨.refl s, rfl, le_rfl, id⟩

theorem State.Edits.fails (h : s.Edits u) : s.Fails u where
  toReadOn := h.toReadOn
  kept := (congrArg State.spared h.kept :)
  srcPos_le := h.srcPos.ge
  srcPos_lt := h.srcPos ▸ id

end

end Sys2Proof.Machine
end

section
/-! SUPPORT. `Stepped`: what one step can answer, case by case. -/

namespace Sys2Proof.Machine

open Sys2Proof

/-! ### The steps -/

/-- A packet is being decoded in phase `p`. -/
structure State.Decoding (s : State) (p : Phase) : Prop where
  phase : s.phase = p
  busy : p.busy = true
  decoding : s.seq.decoding = true

/-- A place of the sequencer inside the decoding of a packet in phase `p`. -/
def Seq.within (q : Seq) (p : Phase) : Bool := q.inPhase p && q.decoding

/-- What a step from `s` can answer. -/
inductive Stepped (s : State) : State → Prop
  /-- A host write resets the core (70_reset_and_hazards.md R380). -/
  | resets (src : List SrcAnswer) (q : List HostWrite) (h : s.resetArrived) :
      Stepped s (softReset { s with src := src, hostQ := q })
  /-- A host write starts the core (10_state.md R41). -/
  | starts (q : List HostWrite) (h : s.startArrived) (idle : s.phase = .idle) :
      Stepped s { s with hostQ := q, phase := .hdrId, seq := .boundary }.publish
  /-- A host write is ignored, or the core rests or waits for the source. -/
  | idles (q : List HostWrite) : Stepped s { s with hostQ := q }
  /-- `next_packet()` begins (40_ogg_demuxer.md R127). -/
  | begins (busy : s.phase.busy = true) (seq : s.seq = .boundary) :
      Stepped s { s with pkt := [], pktBitpos := 0, pktContinuing := false, seq := .assemble false }
  /-- A page is accepted (40_ogg_demuxer.md R126). -/
  | page (p : Page) (b : Bool) (busy : s.phase.busy = true) (seq : s.seq = .assemble b)
      (page : decodePage (srcBytes s.src) = .ok p) (room : s.srcPos + p.byteLength < 2 ^ 64) :
      Stepped s (acceptPage { s.takeSrc p.byteLength with pg := PageRec.ofPage p })
  /-- A segment is appended to the packet (40_ogg_demuxer.md R127). -/
  | segment (b : Bool) (l : Byte) (busy : s.phase.busy = true) (seq : s.seq = .assemble b)
      (valid : s.pageValid = true) (seg : s.pg.seg[s.segCursor]? = some l)
      (fits : s.pkt.length + l.toNat ≤ s.params.maxPacketBytes) :
      Stepped s { s with
        segCursor := s.segCursor + 1
        pkt := s.pkt ++ (s.pg.payload.drop s.payCursor).take l.toNat
        payCursor := s.payCursor + l.toNat
        pktContinuing := decide (l.toNat = 255)
        seq := if l.toNat = 255 then .assemble true else .packet }
  /-- The stream has ended after a packet (40_ogg_demuxer.md R128). -/
  | ends (audio : s.phase = .audio) : Stepped s { s with phase := .done, seq := .boundary }.publish
  /-- A unit or an act of the decoding completes. -/
  | decodes (t : State) (p : Phase) (place : s.Decoding p) (edits : s.Edits t) (within : t.seq.within p = true) : Stepped s t
  /-- A header packet is complete (42_headers.md R170). -/
  | header (u v t : State) (completes : completePacket v = .next t) (edits : s.Edits u)
      (writes : v = { u with cfg := v.cfg, phase := v.phase })
      (move : (s.phase, v.phase) ∈ [(Phase.hdrId, Phase.hdrComment), (.hdrComment, .hdrSetup), (.hdrSetup, .audio)]) :
      Stepped s t
  /-- Transform and overlap-add (47_synthesis.md R331). -/
  | synthesizes (f : Frame) (c : List (List F32)) (n : Nat) (audio : s.phase = .audio) (seq : s.seq = .synth) :
      Stepped s { s with frame := f, carry := c, prevN := n, seq := .emit 0 }
  /-- The sink takes samples, but not all (10_state.md R39). -/
  | stalls (k j : Nat) (xs : List Sample) (room : Option Nat) (audio : s.phase = .audio) (seq : s.seq = .emit k) :
      Stepped s { s with out := s.out ++ xs, sinkRoom := room, seq := .emit j }
  /-- The sink has taken the last sample, and the packet is complete (47_synthesis.md R331). -/
  | finishes (k : Nat) (xs : List Sample) (room : Option Nat) (t : State) (audio : s.phase = .audio) (seq : s.seq = .emit k)
      (completes : frameDone { s with out := s.out ++ xs, sinkRoom := room } = .next t) : Stepped s t
  /-- The abort (60_exceptions.md R351). -/
  | aborts (u : State) (c : ErrCode) (i : Nat) (busy : s.phase.busy = true) (fails : s.Fails u) : Stepped s (u.raise c i)

end Sys2Proof.Machine
end

section
/-! SUPPORT. The reads of the setup units reach the readers they answer with (`Reader.Moves`, `Part.From`). -/

namespace Sys2Proof.Machine

open Sys2Proof

/-! ### The reads of the header units -/

theorem Reader.foldl_moves {β : Type} {f : Reader → β → Reader} (k : ∀ r b, Reader.Moves r (f r b)) (l : List β) :
    ∀ r : Reader, r.Moves (l.foldl f r) := by
  induction l with
  | nil => exact Moves.refl
  | cons b l ih => exact fun r => (k r b).trans (ih _)

theorem sparseReads_moves (lens : List (Option (BitVec 5))) (r : Reader) : r.Moves (sparseReads lens r) :=
  Reader.foldl_moves (fun r v => by
    split
    · exact Reader.skips_moves _ r
    · exact Reader.skip_moves _ r) lens r

theorem orderedLoop_from (entries : Nat) (counts : List Nat) :
    ∀ (l : Nat) (r : Reader) (len : List (Option Nat)), (orderedLoop entries counts l r len).From r := by
  induction counts with
  | nil => exact fun _ r _ => Reader.Moves.refl r
  | cons c cs ih =>
    intro l r len
    have hskip := Reader.skip_moves (countWidth entries len.length) r
    simp only [orderedLoop]
    split
    · exact Reader.Moves.refl r
    · split
      · exact Reader.Moves.refl r
      · split
        · exact hskip
        · exact hskip.trans (ih _ _ _)

theorem commentHdrReads_moves (f : CommentFields) (r : Reader) : r.Moves (commentHdrReads f r) :=
  (Reader.skips_moves _ r).trans <| (Reader.skip_moves _ _).trans <| (Reader.discard_reaches _ _ _).toMoves.trans <|
    (Reader.skip_moves _ _).trans <|
      (Reader.foldl_moves (fun r _ => (Reader.skip_moves _ r).trans (Reader.discard_reaches _ _ _).toMoves) _ _).trans
        (Reader.discard_reaches _ _ _).toMoves

section
variable {r : Reader}

/-- A unit whose type field has been read. -/
theorem Part.From.start {α : Type} (v : α) : Part.From r { rd := r.skip 16, val := v, err := none } := Reader.skip_moves 16 r

theorem floorClass_from (n : Nat) {p : Part FloorConfig} (h : p.From r) (c : ClassFields) : (floorClass n p c).From r := by
  have hhead := h.next (f := fun r f =>
    { rd := r.skips [3, 2]
      val := { f with
        classes := f.classes ++ [{ dim := plusOne c.dimM1, sub := c.sub.toNat, master := none, books := [] }] }
      err := none }) fun r' _ => Reader.skips_moves _ r'
  refine Part.From.foldl (fun q _ hq => hq.field _ _ _) c.books _ ?_
  unfold floorMaster
  split
  · exact hhead
  · exact hhead.field _ _ _

theorem decodeFloor_from (n : Nat) (f : FloorFields) : (decodeFloor n f r).From r := by
  have hparts : (floorPartClasses f.partClass { rd := r.skip 16, val := .fresh, err := none }).From r :=
    (Part.From.start _).next fun r' _ => (Reader.skip_moves _ r').trans (Reader.skipEach_moves _ _ _)
  have hclasses := Part.From.foldl (fun q c hq => floorClass_from n hq c) f.classes _ hparts
  have hrange : (floorRangeAndXs f (f.classes.foldl (floorClass n) _)).From r :=
    hclasses.next fun r' _ => (Reader.skips_moves _ r').trans (Reader.skipEach_moves _ _ _)
  exact hrange.next fun r' _ => Reader.Moves.refl r'

theorem residueRow_from (n cascade : Nat) (passes : List Nat) :
    ∀ (bs : List (BitVec 8)) (p : Part ResidueConfig), p.From r → (residueRow n cascade passes bs p).From r := by
  induction passes with
  | nil => exact fun _ _ h => h
  | cons pass passes ih =>
    intro bs p h
    simp only [residueRow]
    split
    · exact ih _ _ (h.field _ _ _)
    · exact ih _ _ (h.next fun r' _ => Reader.Moves.refl r')

theorem residueBooks_from (n : Nat) (cascades : List Nat) :
    ∀ (rows : List (List (BitVec 8))) (p : Part ResidueConfig), p.From r → (residueBooks n cascades rows p).From r := by
  induction cascades with
  | nil => exact fun _ _ h => h
  | cons c cs ih =>
    exact fun rows p h => ih _ _ (residueRow_from n c _ _ _ (h.next fun r' _ => Reader.Moves.refl r'))

theorem residueCascade_from {p : Part ResidueConfig} (h : p.From r) (c : CascadeFields) : (residueCascade p c).From r :=
  h.next fun r' _ => by
    unfold Part.From
    dsimp only
    split
    · exact Reader.skips_moves _ r'
    · exact Reader.skips_moves _ r'

theorem residueHead_from (n : Nat) (f : ResidueFields) {p : Part ResidueConfig} (h : p.From r) :
    (residueHead n f p).From r := by
  refine Part.From.field (h.next fun r' _ => ?_) _ _ _
  exact Reader.skips_moves _ r'

theorem decodeResidue_from (ty : ResType) (n : Nat) (f : ResidueFields) : (decodeResidue ty n f r).From r :=
  residueBooks_from n _ _ _ <|
    Part.From.foldl (fun _ c hq => residueCascade_from hq c) f.cascade _ (residueHead_from n f (.start _))

theorem mapStep_from (channels : Nat) {p : Part MappingConfig} (h : p.From r) (st : Nat × Nat) :
    (mapStep channels p st).From r :=
  h.next fun r' _ => by
    dsimp only
    split
    · exact Reader.skips_moves _ r'
    · exact Reader.skips_moves _ r'

theorem mapCoupling_from (channels : Nat) (c : Option (List (Nat × Nat))) {p : Part MappingConfig} (h : p.From r) :
    (mapCoupling channels c p).From r := by
  unfold mapCoupling
  split
  · exact h.next fun r' _ => Reader.skip_moves _ r'
  · exact Part.From.foldl (fun q st hq => mapStep_from channels hq st) _ _ (h.next fun r' _ => Reader.skips_moves _ r')

theorem mapMux_from (channels : Nat) (reserved : BitVec 2) (mux : List (BitVec 4)) {p : Part MappingConfig} (h : p.From r) :
    (mapMux channels reserved mux p).From r := by
  refine (h.field _ _ _).next fun r' m => ?_
  split
  · exact Part.From.foldl (fun q v hq => hq.field _ _ _) mux _ (Reader.Moves.refl r')
  · exact Reader.Moves.refl r'

theorem mapSubmaps_from (v : Option (BitVec 4)) {p : Part MappingConfig} (h : p.From r) : (mapSubmaps v p).From r :=
  h.next fun r' _ => by
    unfold Part.From
    dsimp only
    split
    · exact Reader.skips_moves _ r'
    · exact Reader.skip_moves _ r'

theorem mapSub_from (nf nr : Nat) {p : Part MappingConfig} (h : p.From r) (sm : SubmapFields) :
    (mapSub nf nr p sm).From r :=
  Part.From.next (((h.field _ _ _).field _ _ _).field _ _ _) fun r' _ => Reader.Moves.refl r'

theorem decodeMapping_from (channels nf nr : Nat) (f : MapFields) : (decodeMapping channels nf nr f r).From r :=
  Part.From.foldl (fun _ sm hq => mapSub_from nf nr hq sm) f.subs _
    (mapMux_from channels f.reserved f.mux (mapCoupling_from channels f.coupling (mapSubmaps_from f.submapsM1 (.start _))))

end

end Sys2Proof.Machine
end

section
/-! SUPPORT. Each unit and each act of a packet's decoding makes one of the steps of `Stepped`. -/

namespace Sys2Proof.Machine

open Sys2Proof

/-! ### The units and the acts of a packet's decoding -/

section
variable {s t : State} {p : Phase}

theorem State.Decoding.running (h : s.Decoding p) : s.phase.busy = true := h.phase ▸ h.busy

/-- The abort of a unit. -/
theorem Stepped.unitAborts (place : s.Decoding p) {u : State} {c : ErrCode} {i : Nat} (h : abort u c i = .next t)
    (e : s.Edits u) : Stepped s t := by
  cases h
  exact .aborts u c i place.running e.fails

theorem execIdHdr_stepped (place : s.Decoding .hdrId) {f : IdFields} (h : execIdHdr f s = .next t) : Stepped s t := by
  have e := (State.Edits.refl s).skips (prefixWidths ++ [32])
  unfold execIdHdr at h
  dsimp only at h
  generalize s.skips (prefixWidths ++ [32]) = u at e h
  split at h
  · exact .unitAborts place h e
  replace e := e.skips [8]
  generalize u.skips [8] = u at e h
  split at h
  · exact .unitAborts place h e
  replace e := e.skips [32]
  generalize u.skips [32] = u at e h
  split at h
  · exact .unitAborts place h e
  replace e := e.skips [32, 32, 32, 4, 4]
  generalize u.skips [32, 32, 32, 4, 4] = u at e h
  split at h
  · exact .unitAborts place h e
  replace e := e.skips [1]
  generalize u.skips [1] = u at e h
  split at h
  · exact .unitAborts place h e
  · exact .header _ _ t h e rfl (by simp [place.phase])

theorem execCommentHdr_stepped (place : s.Decoding .hdrComment) {f : CommentFields} (h : execCommentHdr f s = .next t) :
    Stepped s t := by
  have e := (State.Edits.refl s).withReader ((commentHdrReads_moves f s.reader).trans (Reader.skip_moves 1 _))
  unfold execCommentHdr at h
  dsimp only at h
  split at h
  · exact .unitAborts place h e
  · exact .header _ _ t h e rfl (by simp [place.phase])

theorem setupFraming_stepped (place : s.Decoding .hdrSetup) (h : setupFraming s = .next t) : Stepped s t := by
  have e := (State.Edits.refl s).skips [1]
  unfold setupFraming at h
  dsimp only at h
  generalize s.skips [1] = u at e h
  split at h
  · exact .header _ _ t h e rfl (by simp [place.phase])
  · exact .unitAborts place h e

theorem execSetupHdr_stepped (place : s.Decoding .hdrSetup) {n : BitVec 8} (h : execSetupHdr n s = .next t) :
    Stepped s t := by
  have e := (State.Edits.refl s).skips (prefixWidths ++ [8])
  unfold execSetupHdr at h
  generalize s.skips (prefixWidths ++ [8]) = u at e h
  cases h
  exact .decodes _ _ place (e.write rfl rfl rfl) rfl

theorem openSection_stepped (place : s.Decoding .hdrSetup) {k : Section} (h : openSection k s = .next t) :
    Stepped s t := by
  have e := (State.Edits.refl s).skips [6]
  cases k <;> cases h <;> exact .decodes _ _ place (e.write rfl rfl rfl) rfl

theorem execCodebook_stepped (place : s.Decoding .hdrSetup) {d : BitVec 16} {n : BitVec 24}
    (h : execCodebook d n s = .next t) : Stepped s t := by
  cases h
  exact .decodes _ _ place (((State.Edits.refl s).skips [24, 16, 24]).write rfl rfl rfl) rfl

theorem execCbLenDense_stepped (place : s.Decoding .hdrSetup) {l : List (BitVec 5)} (h : execCbLenDense l s = .next t) :
    Stepped s t := by
  cases h
  have e := (State.Edits.refl s).withReader ((Reader.skips_moves [1, 1] _).trans (Reader.skipEach_moves 5 l.length _))
  exact .decodes _ _ place (e.write rfl rfl rfl) rfl

theorem execCbLenSparse_stepped (place : s.Decoding .hdrSetup) {l : List (Option (BitVec 5))}
    (h : execCbLenSparse l s = .next t) : Stepped s t := by
  cases h
  have e := (State.Edits.refl s).withReader ((Reader.skips_moves [1, 1] _).trans (sparseReads_moves l _))
  exact .decodes _ _ place (e.write rfl rfl rfl) rfl

theorem execCbLenOrdered_stepped (place : s.Decoding .hdrSetup) {i : BitVec 5} {l : List Nat}
    (h : execCbLenOrdered i l s = .next t) : Stepped s t := by
  unfold execCbLenOrdered at h
  split at h
  · cases h
  · rename_i book _
    have e := (State.Edits.refl s).withReader
      ((Reader.skips_moves [1, 5] _).trans (orderedLoop_from book.entries l (plusOne i) _ []))
    dsimp only at h
    split at h
    · exact .unitAborts place h (e.write rfl rfl rfl)
    · cases h
      exact .decodes _ _ place (e.write rfl rfl rfl) rfl

theorem execCbLookup0_stepped (place : s.Decoding .hdrSetup) (h : execCbLookup0 s = .next t) : Stepped s t := by
  cases h
  exact .decodes _ _ place (((State.Edits.refl s).skips _).write rfl rfl rfl) rfl

theorem lookupVq_stepped (place : s.Decoding .hdrSetup) {k : Nat} {f : VqFields} (h : lookupVq k f s = .next t) :
    Stepped s t := by
  have e := (State.Edits.refl s).withReader (Reader.skips_moves [4, 32, 32, 4, 1] _)
  unfold lookupVq at h
  split at h
  · cases h
  · dsimp only at h
    generalize s.withReader (s.reader.skips [4, 32, 32, 4, 1]) = u at e h
    split at h
    · exact .unitAborts place h (e.write rfl rfl rfl)
    split at h
    · exact .unitAborts place h (e.write rfl rfl rfl)
    · cases h
      have e' := (State.Edits.refl s).withReader ((Reader.skips_moves [4, 32, 32, 4, 1] _).trans
        (Reader.skipEach_moves (plusOne f.valueBitsM1) f.mult.length _))
      exact .decodes _ _ place (e'.write rfl rfl rfl) rfl

theorem huffBuild_stepped (place : s.Decoding .hdrSetup) (h : huffBuild s = .next t) : Stepped s t := by
  have e := State.Edits.refl s
  unfold huffBuild at h
  split at h
  · cases h
  · dsimp only at h
    split at h
    · exact .unitAborts place h (e.write rfl rfl rfl)
    split at h
    · exact .unitAborts place h (e.write rfl rfl rfl)
    · cases h
      refine .decodes _ _ place (e.write rfl rfl rfl) ?_
      dsimp only [State.afterBook]
      split <;> rfl

theorem execTimeEntry_stepped (place : s.Decoding .hdrSetup) (h : execTimeEntry s = .next t) : Stepped s t := by
  cases h
  refine .decodes _ _ place (((State.Edits.refl s).skips _).write rfl rfl rfl) ?_
  dsimp only [Seq.afterTime]
  split
  · split <;> rfl
  · rfl

theorem execFloor1_stepped (place : s.Decoding .hdrSetup) {f : FloorFields} (h : execFloor1 f s = .next t) :
    Stepped s t := by
  have e := (State.Edits.refl s).withReader (decodeFloor_from s.nCodebooks f)
  unfold execFloor1 at h
  dsimp only at h
  split at h
  · exact .unitAborts place h (e.write rfl rfl rfl)
  · cases h
    refine .decodes _ _ place (e.write rfl rfl rfl) ?_
    dsimp only
    split <;> rfl

theorem residueSetup_stepped (place : s.Decoding .hdrSetup) {ty : ResType} {f : ResidueFields}
    (h : residueSetup ty f s = .next t) : Stepped s t := by
  have e := (State.Edits.refl s).withReader (decodeResidue_from ty s.nCodebooks f)
  unfold residueSetup at h
  dsimp only at h
  split at h
  · exact .unitAborts place h (e.write rfl rfl rfl)
  · cases h
    refine .decodes _ _ place (e.write rfl rfl rfl) ?_
    dsimp only
    split <;> rfl

theorem execMap0_stepped (place : s.Decoding .hdrSetup) {f : MapFields} (h : execMap0 f s = .next t) : Stepped s t := by
  have e := (State.Edits.refl s).withReader (decodeMapping_from s.cfg.channels s.nFloors s.nResidues f)
  unfold execMap0 at h
  dsimp only at h
  split at h
  · exact .unitAborts place h (e.write rfl rfl rfl)
  · cases h
    refine .decodes _ _ place (e.write rfl rfl rfl) ?_
    dsimp only
    split <;> rfl

theorem execMode_stepped (place : s.Decoding .hdrSetup) {b : Bool} {m : BitVec 8} (h : execMode b m s = .next t) :
    Stepped s t := by
  have e := (State.Edits.refl s).skips [1, 16, 16, 8]
  unfold execMode at h
  dsimp only at h
  generalize s.skips [1, 16, 16, 8] = u at e h
  split at h
  · exact .unitAborts place h (e.write rfl rfl rfl)
  · cases h
    refine .decodes _ _ place (e.write rfl rfl rfl) ?_
    dsimp only
    split <;> rfl

/-! ### Audio packets -/

theorem State.floorSeq_within (s : State) (ch : Nat) : (s.floorSeq ch).within .audio = true := by
  unfold State.floorSeq
  split <;> rfl

theorem MappingConfig.residueSeq_within (m : MappingConfig) (channels sm : Nat) :
    (m.residueSeq channels sm).within .audio = true := by
  unfold MappingConfig.residueSeq
  split <;> rfl

theorem execAudioPacket_stepped (place : s.Decoding .audio) {k : Nat} (h : execAudioPacket k s = .next t) : Stepped s t := by
  have e := (State.Edits.refl s).skips [1, modeWidth s.nModes]
  unfold execAudioPacket at h
  dsimp only at h
  split at h
  · exact .unitAborts place h e
  split at h
  · cases h
  · cases h
    refine .decodes _ _ place (e.write rfl rfl rfl) ?_
    dsimp only
    split
    · rfl
    · exact State.floorSeq_within _ 0

theorem execWindowFlags_stepped (place : s.Decoding .audio) {a b : Bool} (h : execWindowFlags a b s = .next t) :
    Stepped s t := by
  cases h
  exact .decodes _ _ place (((State.Edits.refl s).skips _).write rfl rfl rfl) (State.floorSeq_within _ 0)

theorem execFloor1PayloadUnused_stepped (place : s.Decoding .audio) (h : execFloor1PayloadUnused s = .next t) :
    Stepped s t := by
  cases h
  exact .decodes _ _ place (((State.Edits.refl s).skips _).write rfl rfl rfl) (State.floorSeq_within _ _)

/-- The end of an operation on the packet (60_exceptions.md R351): the value it goes on with, or its abort. -/
theorem Got.finish_stepped {α : Type} {g : Got α} {u : State} {f : α → State → Host.Outcome State Fault Refusal}
    {r : Reader} (place : s.Decoding p) (e : s.Edits u) (hr : u.reader.Moves r) (hg : g.From r)
    (hf : ∀ a v, s.Edits v → f a v = .next t → Stepped s t) (h : g.finish u f = .next t) : Stepped s t := by
  cases g with
  | ok a r' => exact hf a _ (e.withReader (hr.trans (Reader.Reaches.toMoves hg))) h
  | bad c i r' => exact .unitAborts place h (e.withReader (hr.trans (Reader.Reaches.toMoves hg)))
  | stuck k => cases h

theorem execFloor1PayloadPresent_stepped (place : s.Decoding .audio) {y0 y1 : Nat}
    (h : execFloor1PayloadPresent y0 y1 s = .next t) : Stepped s t := by
  unfold execFloor1PayloadPresent at h
  split at h
  · cases h
  · rename_i f _
    refine Got.finish_stepped place ((State.Edits.refl s).write (v := s.markFloor s.curChannel false) rfl rfl rfl)
      (Reader.skips_moves _ _) (floorPartitions_from s.codebooks f f.partClass _) (fun ys v e hv => ?_) h
    cases hv
    exact .decodes _ _ place (e.write rfl rfl rfl) (State.floorSeq_within _ _)

theorem residuePayload_stepped (place : s.Decoding .audio) {ty : ResType} (h : residuePayload ty s = .next t) :
    Stepped s t := by
  unfold residuePayload at h
  split at h
  · cases h
  split at h
  · cases h
  · refine Got.finish_stepped place (State.Edits.refl s) (Reader.Moves.refl _) (residueDecode_from _ _ _ _ _ _ _)
      (fun w v e hv => ?_) h
    cases hv
    exact .decodes _ _ place (e.write rfl rfl rfl) (MappingConfig.residueSeq_within _ _ _)

theorem channelVector_edits {ch : Nat} {u : State} (h : channelVector ch s = .inl u) : s.Edits u := by
  rcases channelVector_inl.1 h with ⟨-, rfl⟩ | ⟨-, _, _, _, _, _, -, -, rfl⟩
  · exact (State.Edits.refl s).write rfl rfl rfl
  · exact (State.Edits.refl s).write rfl rfl rfl

theorem floorVectors_edits (chs : List Nat) : ∀ {s u : State}, floorVectors chs s = .inl u → s.Edits u := by
  induction chs with
  | nil => rintro s _ ⟨⟩; exact State.Edits.refl s
  | cons ch chs ih =>
    intro s u h
    simp only [floorVectors] at h
    split at h
    · cases h
    · exact (channelVector_edits ‹_›).trans (ih h)

/-- Floor vectors that do not all come out end the step with a fault or with an abort. -/
theorem floorVectors_next (chs : List Nat) :
    ∀ {s t : State}, floorVectors chs s = .inr (.next t) → ∃ u i, s.Edits u ∧ t = u.raise .floorAmplitude i := by
  induction chs with
  | nil => rintro s t ⟨⟩
  | cons ch chs ih =>
    intro s t h
    simp only [floorVectors] at h
    split at h
    · rename_i o ho
      cases h
      rcases (channelVector_inr ho).2 with ⟨e, he⟩ | ⟨_, _, _, _, -, -, he⟩
      · cases he
      · cases he
        exact ⟨s.storeCurve ch _ _ _, ch, (State.Edits.refl s).write rfl rfl rfl, rfl⟩
    · rename_i v hv
      obtain ⟨u, i, hu, ht⟩ := ih h
      exact ⟨u, i, (channelVector_edits hv).trans hu, ht⟩

theorem floorCurves_stepped (place : s.Decoding .audio) (h : floorCurves s = .next t) : Stepped s t := by
  unfold floorCurves at h
  split at h
  · cases h
  split at h
  · subst h
    obtain ⟨u, i, e, rfl⟩ := floorVectors_next _ ‹_›
    exact .aborts u _ i place.running e.fails
  · rename_i hv
    cases h
    exact .decodes _ _ place ((floorVectors_edits _ hv).write rfl rfl rfl) (MappingConfig.residueSeq_within _ _ _)

theorem coupleOp_stepped (place : s.Decoding .audio) (h : coupleOp s = .next t) : Stepped s t := by
  unfold coupleOp at h
  split at h
  · cases h
  · cases h
    exact .decodes _ _ place ((State.Edits.refl s).write rfl rfl rfl) rfl

end

end Sys2Proof.Machine
end

section
/-! SUPPORT. Every step makes one of the steps of `Stepped`: units by the phase of their context, packet assembly,
synthesis and emission, and the host's writes. -/

namespace Sys2Proof.Machine

open Sys2Proof

/-! ### The phase of a unit -/

/-- The phase whose packets hold a unit; a page stands in none. -/
def unitPhase : Instr → Option Phase
  | .oggPage _ => none
  | .idHdr _ => some .hdrId
  | .commentHdr _ => some .hdrComment
  | .audioPacket _ | .windowFlags _ _ | .floor1PayloadUnused | .floor1PayloadPresent _ _ => some .audio
  | .res0Payload | .res1Payload | .res2Payload => some .audio
  | _ => some .hdrSetup

/-- The phase whose packets are read in a context; a page is read in none. -/
def ctxPhase : Ctx → Option Phase
  | .page => none
  | .idHdr => some .hdrId
  | .commentHdr => some .hdrComment
  | .audio _ | .window | .floorPayload _ | .residuePayload _ => some .audio
  | _ => some .hdrSetup

/-- A header packet decodes to what stands after its type and magic bytes. -/
theorem decodePrefixed_ok {k : Nat} {bs rest : List Bool} {body : List Bool → Decoded} {i : Instr}
    (h : decodePrefixed k bs body = .ok i rest) : ∃ bs', body bs' = .ok i rest := by
  unfold decodePrefixed at h
  dsimp only at h
  split at h
  · cases h
  split at h
  · cases h
  · exact ⟨_, h⟩

theorem decodeLengths_phase {n : Nat} {bs rest : List Bool} {i : Instr} (h : decodeLengths n bs = .ok i rest) :
    unitPhase i = some .hdrSetup := by
  unfold decodeLengths at h
  dsimp only at h
  split at h
  · cases h; rfl
  split at h
  · cases h; rfl
  · cases h; rfl

theorem decodeLookup_phase {b n d room : Nat} {bs rest : List Bool} {i : Instr}
    (h : decodeLookup b n d room bs = .ok i rest) :
    unitPhase i = some .hdrSetup := by
  unfold decodeLookup at h
  dsimp only at h
  split at h
  · cases h; rfl
  · cases h; rfl
  · cases h; rfl
  · cases h

theorem decodeMode_phase {k : Nat} {bs rest : List Bool} {i : Instr} (h : decodeMode k bs = .ok i rest) :
    unitPhase i = some .hdrSetup := by
  unfold decodeMode at h
  dsimp only at h
  split at h
  · cases h
  split at h
  · cases h
  · cases h; rfl

/-- A unit belongs to the phase of the context it is read in (30_encoding.md R82). -/
theorem decode_phase {c : Ctx} {bs rest : List Bool} {i : Instr} (h : decode c bs = .ok i rest) :
    unitPhase i = ctxPhase c := by
  cases c with
  | page => simp only [decode] at h; split at h <;> cases h; rfl
  | idHdr => obtain ⟨_, h⟩ := decodePrefixed_ok h; cases h; rfl
  | commentHdr => obtain ⟨_, h⟩ := decodePrefixed_ok h; cases h; rfl
  | setupHdr => obtain ⟨_, h⟩ := decodePrefixed_ok h; cases h; rfl
  | codebook b => simp only [decode] at h; split at h <;> cases h; rfl
  | lengths n => exact decodeLengths_phase h
  | lookup b n d room => exact decodeLookup_phase h
  | time k => simp only [decode] at h; split at h <;> cases h; rfl
  | floor k => simp only [decode] at h; split at h <;> cases h; rfl
  | residue k => simp only [decode] at h; split at h <;> cases h <;> rfl
  | mapping k n => simp only [decode] at h; split at h <;> cases h; rfl
  | mode k => exact decodeMode_phase h
  | audio n => simp only [decode] at h; split at h <;> cases h; rfl
  | window => cases h; rfl
  | floorPayload r => simp only [decode] at h; split at h <;> cases h <;> rfl
  | residuePayload ty => cases ty <;> cases h <;> rfl

section
variable {s t : State}

theorem ctxPhase_of_packetCtx {c : Ctx} (hc : s.packetCtx = some c) : ctxPhase c = some s.phase := by
  unfold State.packetCtx at hc
  cases hp : s.phase with
  | hdrId | hdrComment | hdrSetup | audio => rw [hp] at hc; cases hc; rfl
  | idle | done | error => rw [hp] at hc; cases hc

/-- The unit at the bit cursor is one of the phase, when the sequencer's place is. -/
theorem ctxPhase_of_ctx {c : Ctx} (hp : s.seq.inPhase s.phase = true) (hc : s.ctx = some c) : ctxPhase c = some s.phase := by
  unfold State.ctx at hc
  cases hq : s.seq with
  | packet => rw [hq] at hc; exact ctxPhase_of_packetCtx hc
  | codebook | time _ _ | floor | residue | mapping | mode | window =>
    rw [hq] at hp hc
    cases hc
    rw [of_decide_eq_true hp]
    rfl
  | lengths | lookup | floorPayload _ | residuePayload _ =>
    rw [hq] at hp hc
    obtain ⟨_, -, rfl⟩ := Option.map_eq_some_iff.1 hc
    rw [of_decide_eq_true hp]
    rfl
  | boundary | assemble _ | huffBuild | count _ | framing | curves | couple | synth | emit _ => rw [hq] at hc; cases hc

/-! ### The units of a packet -/

theorem illegalWrites_edits {u : State} (e : s.Edits u) (c : ErrCode) (head : Nat) : s.Edits (illegalWrites c head u) := by
  unfold illegalWrites
  split
  · exact e.write rfl rfl rfl
  · exact e.write rfl rfl rfl
  · exact e.write rfl rfl rfl
  · exact e

theorem exec_stepped {p : Phase} (place : s.Decoding p) {i : Instr} (hi : unitPhase i = some p) (h : exec i s = .next t) :
    Stepped s t := by
  cases i with
  | oggPage _ => cases hi
  | idHdr _ => cases hi; exact execIdHdr_stepped place h
  | commentHdr _ => cases hi; exact execCommentHdr_stepped place h
  | setupHdr _ => cases hi; exact execSetupHdr_stepped place h
  | codebook _ _ => cases hi; exact execCodebook_stepped place h
  | cbLenDense _ => cases hi; exact execCbLenDense_stepped place h
  | cbLenSparse _ => cases hi; exact execCbLenSparse_stepped place h
  | cbLenOrdered _ _ => cases hi; exact execCbLenOrdered_stepped place h
  | cbLookup0 => cases hi; exact execCbLookup0_stepped place h
  | cbLookup1 _ => cases hi; exact lookupVq_stepped place h
  | cbLookup2 _ => cases hi; exact lookupVq_stepped place h
  | timeEntry => cases hi; exact execTimeEntry_stepped place h
  | floor1 _ => cases hi; exact execFloor1_stepped place h
  | res0 _ => cases hi; exact residueSetup_stepped place h
  | res1 _ => cases hi; exact residueSetup_stepped place h
  | res2 _ => cases hi; exact residueSetup_stepped place h
  | map0 _ => cases hi; exact execMap0_stepped place h
  | mode _ _ => cases hi; exact execMode_stepped place h
  | audioPacket _ => cases hi; exact execAudioPacket_stepped place h
  | windowFlags _ _ => cases hi; exact execWindowFlags_stepped place h
  | floor1PayloadUnused => cases hi; exact execFloor1PayloadUnused_stepped place h
  | floor1PayloadPresent _ _ => cases hi; exact execFloor1PayloadPresent_stepped place h
  | res0Payload => cases hi; exact residuePayload_stepped place h
  | res1Payload => cases hi; exact residuePayload_stepped place h
  | res2Payload => cases hi; exact residuePayload_stepped place h

/-- What a fetched act or unit answers. -/
def Fetched.outcome (s : State) : Fetched → Host.Outcome State Fault Refusal
  | .run i => exec i s
  | .act o => o

theorem step_eq (s : State) : step s = (fetch s).outcome s := rfl

theorem fetchUnit_stepped (place : s.Decoding s.phase) (hp : s.seq.inPhase s.phase = true)
    (h : (fetchUnit s).outcome s = .next t) : Stepped s t := by
  cases hc : s.ctx with
  | none => simp [fetchUnit, hc, Fetched.outcome] at h
  | some c =>
    cases hd : decode c s.reader.rest with
    | ok i rest =>
      rw [fetchUnit_ok hc hd] at h
      exact exec_stepped place ((decode_phase hd).trans (ctxPhase_of_ctx hp hc)) h
    | illegal e k ws head =>
      rw [fetchUnit_illegal hc hd] at h
      exact .unitAborts place h (illegalWrites_edits ((State.Edits.refl s).skips ws) e head)

/-! ### Packet assembly -/

/-- A page that has come in full is accepted, or its CRC is wrong (40_ogg_demuxer.md R120, R125). -/
theorem execOggPage_stepped {b : Bool} {p : Page} (busy : s.phase.busy = true) (hq : s.seq = .assemble b)
    (hd : decodePage (srcBytes s.src) = .ok p) (h : execOggPage p s = .next t) : Stepped s t := by
  obtain ⟨hroom, h⟩ := takeThen_next.1 h
  dsimp only at h
  split at h
  · cases h
    exact .page p b busy hq hd hroom
  · cases h
    exact .aborts _ _ _ busy ⟨⟨rfl, id, id⟩, rfl, Nat.le_add_right _ _, fun _ => hroom⟩

/-- A take of `k` bytes and what is written of the page record before an abort. -/
theorem State.Fails.takeSrc {k : Nat} (hroom : s.srcPos + k < 2 ^ 64) (pg : PageRec) (src : List SrcAnswer) :
    s.Fails { s.takeSrc k with pg := pg, src := src } :=
  ⟨⟨rfl, id, id⟩, rfl, Nat.le_add_right _ _, fun _ => hroom⟩

theorem pageIllegal_stepped {bytes : List Byte} {c : ErrCode} (busy : s.phase.busy = true)
    (h : pageIllegal bytes c s = .next t) : Stepped s t := by
  obtain ⟨hroom, h⟩ := takeThen_next.1 h
  cases h
  exact .aborts _ _ _ busy (.takeSrc hroom _ _)

theorem cleanEnd_stepped {b : Bool} (busy : s.phase.busy = true) (h : cleanEnd b s = .next t) : Stepped s t := by
  unfold cleanEnd at h
  split at h
  · cases h
    exact .aborts s _ _ busy (.refl s)
  · rcases endOfStream_cases s with ⟨ha, he⟩ | ⟨-, he⟩
    · rw [he] at h
      cases h
      exact .ends ha
    · rw [he] at h
      cases h
      exact .aborts s _ _ busy (.refl s)

theorem pageShort_stepped {b : Bool} {bytes : List Byte} (busy : s.phase.busy = true)
    (h : pageShort b bytes s = .next t) : Stepped s t := by
  unfold pageShort at h
  split at h
  · cases h
    exact .idles s.hostQ
  · obtain ⟨hroom, h⟩ := takeThen_next.1 h
    cases h
    exact .aborts _ _ _ busy (.takeSrc hroom _ _)
  · cases h
    exact .idles s.hostQ
  split at h
  · exact cleanEnd_stepped busy h
  · obtain ⟨hroom, h⟩ := takeThen_next.1 h
    cases h
    exact .aborts _ _ _ busy (.takeSrc hroom _ _)

theorem takeSegment_stepped {b : Bool} (busy : s.phase.busy = true) (hq : s.seq = .assemble b)
    (hn : s.needsPage = false) (h : takeSegment s = .next t) : Stepped s t := by
  obtain ⟨l, hl, ⟨-, rfl⟩ | ⟨hfit, rfl⟩⟩ := takeSegment_next h
  · exact .aborts _ _ _ busy ⟨⟨rfl, id, id⟩, rfl, le_rfl, id⟩
  · refine .segment b l busy hq ?_ hl hfit
    simp only [State.needsPage, Bool.or_eq_false_iff, Bool.not_eq_false'] at hn
    exact hn.1

theorem fetchSegment_stepped {b : Bool} (busy : s.phase.busy = true) (hq : s.seq = .assemble b)
    (h : (fetchSegment b s).outcome s = .next t) : Stepped s t := by
  unfold fetchSegment at h
  split at h
  · split at h
    · exact execOggPage_stepped busy hq ‹_› h
    · exact pageShort_stepped busy h
    · exact pageIllegal_stepped busy h
  · exact takeSegment_stepped busy hq (Bool.eq_false_of_not_eq_true ‹_›) h

/-! ### Synthesis and emission -/

theorem emit_stepped {k : Nat} (audio : s.phase = .audio) (hq : s.seq = .emit k) (h : emit k s = .next t) : Stepped s t := by
  obtain ⟨m, -, ⟨-, he⟩ | ⟨-, he⟩⟩ := emit_cases k s
  · rw [he] at h
    exact .finishes k _ _ t audio hq h
  · rw [he] at h
    cases h
    exact .stalls k _ _ _ audio hq

/-! ### The host -/

/-- A host write resets the core, starts it, or is ignored; only one that resets finds other answers of the source. -/
theorem hostWrite_stepped {w : HostWrite} {rest : List HostWrite} {src : List SrcAnswer} (hq : s.hostQ = w :: rest)
    (hsrc : w.resets s.params.regsBase = false → src = s.src)
    (h : hostWrite w { s with hostQ := rest, src := src } = .next t) : Stepped s t := by
  obtain ⟨hal, ⟨hbase, rfl⟩ | ⟨hbase, rfl⟩⟩ := hostWrite_next h
  · rcases writeCtrl_cases w.value { s with hostQ := rest, src := src } with ⟨h1, he⟩ | ⟨h1, h0, hidle, he⟩ | ⟨h1, -, he⟩
    · rw [he]
      exact .resets src rest ⟨w, rest, hq, hbase, h1⟩
    · obtain rfl := hsrc (by rw [HostWrite.resets, h1, Bool.and_false])
      rw [he]
      exact .starts rest ⟨w, rest, hq, hbase, h1, h0⟩ hidle
    · obtain rfl := hsrc (by rw [HostWrite.resets, h1, Bool.and_false])
      rw [he]
      exact .idles rest
  · have hne : w.addr ≠ s.params.regsBase := hbase
    obtain rfl := hsrc (by simp [HostWrite.resets, hne])
    exact .idles rest

theorem takeHostWrite_stepped {w : HostWrite} {rest : List HostWrite} (hq : s.hostQ = w :: rest)
    (h : takeHostWrite w rest s = .next t) : Stepped s t := by
  unfold takeHostWrite at h
  dsimp only at h
  split at h
  · rename_i hw
    exact hostWrite_stepped hq (fun hr => by simp [hr] at hw) h
  · exact hostWrite_stepped (src := s.src) hq (fun _ => rfl) h

/-! ### The step -/

theorem fetchCore_stepped (busy : s.phase.busy = true) (hp : s.seq.inPhase s.phase = true)
    (h : (fetchCore s).outcome s = .next t) : Stepped s t := by
  have place {p : Phase} (hs : s.phase = p) (hd : s.seq.decoding = true) : s.Decoding p := ⟨hs, hs ▸ busy, hd⟩
  unfold fetchCore at h
  cases hq : s.seq with
  | boundary =>
    rw [hq] at h
    cases h
    exact .begins busy hq
  | assemble b =>
    rw [hq] at h
    exact fetchSegment_stepped busy hq h
  | packet | codebook | lengths | lookup | time _ _ | floor | residue | mapping | mode | window | floorPayload _
  | residuePayload _ =>
    rw [hq] at h
    exact fetchUnit_stepped (place rfl (by rw [hq]; rfl)) hp h
  | huffBuild =>
    rw [hq] at h hp
    exact huffBuild_stepped (place (of_decide_eq_true hp) (by rw [hq]; rfl)) h
  | count k =>
    rw [hq] at h hp
    exact openSection_stepped (place (of_decide_eq_true hp) (by rw [hq]; rfl)) h
  | framing =>
    rw [hq] at h hp
    exact setupFraming_stepped (place (of_decide_eq_true hp) (by rw [hq]; rfl)) h
  | curves =>
    rw [hq] at h hp
    exact floorCurves_stepped (place (of_decide_eq_true hp) (by rw [hq]; rfl)) h
  | couple =>
    rw [hq] at h hp
    exact coupleOp_stepped (place (of_decide_eq_true hp) (by rw [hq]; rfl)) h
  | synth =>
    rw [hq] at h hp
    cases h
    exact .synthesizes _ _ _ (of_decide_eq_true hp) hq
  | emit k =>
    rw [hq] at h hp
    exact emit_stepped (of_decide_eq_true hp) hq h

theorem fetchCoreOrRest_stepped (hp : s.phase.busy = true → s.seq.inPhase s.phase = true)
    (h : (fetchCoreOrRest s).outcome s = .next t) : Stepped s t := by
  unfold fetchCoreOrRest at h
  split at h
  · exact fetchCore_stepped ‹_› (hp ‹_›) h
  · cases h
    exact .idles s.hostQ

/-- What a step can answer, when the sequencer's place belongs to the phase. -/
theorem step_stepped (hp : s.phase.busy = true → s.seq.inPhase s.phase = true) (h : step s = .next t) : Stepped s t := by
  rw [step_eq] at h
  unfold fetch at h
  split at h
  · exact fetchCoreOrRest_stepped hp h
  split at h
  · exact takeHostWrite_stepped ‹_› h
  · exact fetchCoreOrRest_stepped hp h

end

end Sys2Proof.Machine
end

section
/-! The machine's invariant is kept by every step. -/

namespace Sys2Proof.Machine

open Sys2Proof

/-! ### The invariant apart from the sequencer's place and the host's view -/

/-- The packet, the widths and the counters. -/
structure State.InBounds (s : State) : Prop where
  cursor : s.pktBitpos ≤ 8 * s.pkt.length
  capacity : s.pkt.length ≤ s.params.maxPacketBytes
  srcPos : s.srcPos < 2 ^ 64
  packetNo : s.packetNo < 2 ^ 32
  warn : s.warn.Sound
  pages : s.cnt.pagesAccepted < 2 ^ 32
  frames : s.cnt.framesOut < 2 ^ 64
  packets : s.cnt.packetsDone = s.packetNo

/-- What the invariant says at every place of the sequencer. -/
structure State.Sound (s : State) : Prop extends State.InBounds s where
  noError : s.phase ≠ .error → s.err = .clear
  errorCause : s.phase = .error → ∃ c, s.err.isOf c
  page : s.phase ≠ .error → s.pageValid = true → s.pageOk
  carry : s.phase = .idle ∨ s.phase = .hdrId ∨ s.phase = .hdrComment ∨ s.phase = .hdrSetup → s.prevN = 0 ∧ s.carry = []

section
variable {s t u v : State}

theorem State.Inv.sound (h : s.Inv) : s.Sound where
  cursor := h.cursor
  capacity := h.capacity
  srcPos := h.srcPos
  packetNo := h.packetNo
  warn := ⟨h.exhausted, h.clamp, h.warnAny⟩
  pages := h.pages
  frames := h.frames
  packets := h.packets
  noError := h.noError
  errorCause := h.errorCause
  page := h.page
  carry := h.carry

theorem State.Sound.inv (h : s.Sound) (view : s.phase.busy = false ∨ s.seq = .boundary → s.view = s.mirror)
    (place : s.phase.busy = true → s.seq.inPhase s.phase = true)
    (continuing : s.phase.busy = true → s.seq.decoding = true → s.pktContinuing = false)
    (started : ∀ b, s.phase.busy = true → s.seq = .assemble b → s.pktContinuing = b) : s.Inv where
  noError := h.noError
  errorCause := h.errorCause
  cursor := h.cursor
  capacity := h.capacity
  srcPos := h.srcPos
  packetNo := h.packetNo
  exhausted := h.warn.exhausted
  clamp := h.warn.clamp
  pages := h.pages
  frames := h.frames
  warnAny := h.warn.any
  packets := h.packets
  view := view
  place := place
  page := h.page
  continuing := continuing
  started := started
  carry := h.carry

/-- Between two core steps the host sees the state, and nothing is asked of the sequencer (10_state.md R52). -/
theorem State.Sound.inv_of_boundary (h : s.Sound) (view : s.view = s.mirror) (hq : s.seq = .boundary) : s.Inv :=
  h.inv (fun _ => view) (fun _ => by rw [hq]; rfl) (fun _ hd => by rw [hq] at hd; cases hd)
    (fun _ _ ha => by rw [hq] at ha; cases ha)

/-- A core that rests is asked for its view only. -/
theorem State.Sound.inv_of_rest (h : s.Sound) (view : s.view = s.mirror) (hb : s.phase.busy = false) : s.Inv :=
  h.inv (fun _ => view) (fun hc => by simp [hb] at hc) (fun hc => by simp [hb] at hc) (fun _ hc => by simp [hb] at hc)

/-- In the assembly of a packet `PKT_CONTINUING` says whether it has started (40_ogg_demuxer.md R127). -/
theorem State.Sound.inv_of_assemble {b : Bool} (h : s.Sound) (busy : s.phase.busy = true) (hq : s.seq = .assemble b)
    (hc : s.pktContinuing = b) : s.Inv :=
  h.inv (fun hb => by simp [busy, hq] at hb) (fun _ => by rw [hq]; rfl) (fun _ hd => by rw [hq] at hd; cases hd)
    (fun _ _ ha => by rw [hq] at ha; cases ha; exact hc)

/-- In the decoding of a packet it is clear (41_bitreader.md R155). -/
theorem State.Sound.inv_of_within {p : Phase} (h : s.Sound) (hp : s.phase = p) (busy : p.busy = true)
    (hw : s.seq.within p = true) (hc : s.pktContinuing = false) : s.Inv := by
  subst hp
  obtain ⟨hin, hdec⟩ : s.seq.inPhase s.phase = true ∧ s.seq.decoding = true := by simpa [Seq.within] using hw
  refine h.inv ?_ (fun _ => hin) (fun _ _ => hc) (fun _ _ ha => ?_)
  · rintro (hb | hb)
    · simp [busy] at hb
    · simp [hb, Seq.decoding] at hdec
  · simp [ha, Seq.decoding] at hdec

theorem State.ReadOn.cursor_le (h : s.ReadOn u) (hs : s.InBounds) : u.pktBitpos ≤ 8 * u.pkt.length := by
  rw [h.pkt]
  exact h.cursor hs.cursor

theorem State.Fails.inBounds (h : s.Fails u) (hs : s.InBounds) : u.InBounds where
  cursor := h.cursor_le hs
  capacity := by rw [h.pkt, h.params]; exact hs.capacity
  srcPos := h.srcPos_lt hs.srcPos
  packetNo := by rw [h.packetNo]; exact hs.packetNo
  warn := h.warn hs.warn
  pages := by rw [h.cnt]; exact hs.pages
  frames := by rw [h.cnt]; exact hs.frames
  packets := by rw [h.cnt, h.packetNo]; exact hs.packets

theorem State.Edits.sound (e : s.Edits u) (hs : s.Sound) : u.Sound where
  toInBounds := e.fails.inBounds hs.toInBounds
  noError := by rw [e.phase, e.err]; exact hs.noError
  errorCause := by rw [e.phase, e.err]; exact hs.errorCause
  page := by rw [e.phase, e.pageValid, e.pageOk]; exact hs.page
  carry := by rw [e.phase, e.prevN, e.carry]; exact hs.carry

/-- The abort keeps the invariant, however far the failing operation had come (60_exceptions.md R351). -/
theorem State.InBounds.raise (h : u.InBounds) (c : ErrCode) (i : Nat) : (u.raise c i).Inv :=
  State.Sound.inv_of_rest
    { cursor := h.cursor, capacity := h.capacity, srcPos := h.srcPos, packetNo := h.packetNo, warn := h.warn
      pages := h.pages, frames := h.frames, packets := h.packets
      noError := fun hn => absurd rfl hn
      errorCause := fun _ => ⟨c, raise_isOf u c i⟩
      page := fun hn => absurd rfl hn
      carry := fun hn => by simp at hn } rfl rfl

/-- The completion of a packet keeps the invariant (40_ogg_demuxer.md R131). -/
theorem State.Sound.completePacket (h : u.Sound) (hc : completePacket u = .next t) : t.Inv := by
  obtain ⟨hroom, rfl⟩ := completePacket_next.1 hc
  refine State.Sound.inv_of_boundary
    { cursor := h.cursor, capacity := h.capacity, srcPos := h.srcPos, packetNo := hroom, warn := h.warn
      pages := h.pages, frames := h.frames, packets := ?_
      noError := h.noError, errorCause := h.errorCause, page := h.page, carry := h.carry } rfl rfl
  show satAdd 32 u.cnt.packetsDone 1 = u.packetNo + 1
  rw [h.packets, satAdd_of_lt hroom]

/-- From one header to the next, and from the last one to the audio. -/
theorem State.Sound.nextPhase (h : u.Sound) (hv : v = { u with cfg := v.cfg, phase := v.phase })
    (move : (u.phase, v.phase) ∈ [(Phase.hdrId, Phase.hdrComment), (.hdrComment, .hdrSetup), (.hdrSetup, .audio)]) :
    v.Sound := by
  obtain ⟨c, p, rfl⟩ : ∃ c p, v = { u with cfg := c, phase := p } := ⟨_, _, hv⟩
  have hu : u.phase = .hdrId ∨ u.phase = .hdrComment ∨ u.phase = .hdrSetup := by simp at move; tauto
  have hp : p ≠ .error := by rintro rfl; simp at move
  have hne : u.phase ≠ .error := by rintro he; simp [he] at hu
  exact { h with
    noError := fun _ => h.noError hne
    errorCause := fun he => absurd he hp
    page := fun _ => h.page hne
    carry := fun _ => h.carry (.inr hu) }

/-! ### The page and its cursors -/

theorem total_append (a b : List Nat) : total (a ++ b) = total a + total b := by
  induction a with
  | nil => simp [total]
  | cons x a ih => simp only [List.cons_append, total, ih]; omega

/-- The segment table of a page read in full is as long as the header says, and the payload as the table says
(30_encoding.md R80). -/
theorem decodePage_lengths {p : Page} {bytes : List Byte} (h : decodePage bytes = .ok p) :
    p.segs.length < 256 ∧ p.payload.length = total (p.segs.map BitVec.toNat) := by
  unfold decodePage at h
  split at h
  · cases h
  split at h
  · cases h
  split at h
  · cases h
  split at h
  · cases h
  · cases h
    have hn := (bytes.getD 26 0).isLt
    simp only [pageOf, payloadOf, List.length_take, List.length_drop]
    refine ⟨?_, by omega⟩
    simp only [segsOf, List.length_take]
    omega

/-- A page read in full is as long as its header says, and none of it is taken yet (10_state.md R24). -/
theorem acceptPage_pageOk {p : Page} {bytes : List Byte} (h : decodePage bytes = .ok p) (s : State) :
    (acceptPage { s with pg := PageRec.ofPage p }).pageOk := by
  obtain ⟨hseg, hpay⟩ := decodePage_lengths h
  refine ⟨?_, Nat.zero_le _, rfl, hpay⟩
  exact (Nat.mod_eq_of_lt hseg).symm

/-- The payload cursor moves over the segment taken (40_ogg_demuxer.md R127). -/
theorem State.pageOk.segment {l : Byte} (h : s.pageOk) (hl : s.pg.seg[s.segCursor]? = some l)
    (hpg : t.pg = s.pg) (hseg : t.segCursor = s.segCursor + 1) (hpay : t.payCursor = s.payCursor + l.toNat) : t.pageOk := by
  obtain ⟨htable, hcursor, hpos, hlen⟩ := h
  obtain ⟨hlt, hget⟩ := List.getElem?_eq_some_iff.1 hl
  rw [State.pageOk, hpg, hseg, hpay]
  refine ⟨htable, by omega, ?_, hlen⟩
  rw [List.take_add_one, hl, List.map_append, total_append, ← hpos]
  rfl

/-! ### The invariant is kept -/

/-- The state after reset, whatever its parameters are (70_reset_and_hazards.md R381). -/
theorem softReset_sound (s : State) : (softReset s).Sound where
  cursor := le_rfl
  capacity := Nat.zero_le _
  srcPos := Nat.two_pow_pos _
  packetNo := Nat.two_pow_pos _
  warn := ⟨Nat.two_pow_pos _, Nat.two_pow_pos _, rfl⟩
  pages := Nat.two_pow_pos _
  frames := Nat.two_pow_pos _
  packets := rfl
  noError := fun _ => rfl
  errorCause := fun he => by cases he
  page := fun _ hv => by cases hv
  carry := fun _ => ⟨rfl, rfl⟩


/-- Settles O54, by the cases of `Stepped`. -/
theorem invStep : Obligations.InvStep := by
  unfold Obligations.InvStep
  intro s t h hstep
  have hs := h.sound
  cases step_stepped h.place hstep with
  | resets src q _ => exact (softReset_sound _).inv_of_rest rfl rfl
  | starts q _ idle =>
    refine State.Sound.inv_of_boundary { hs with
      noError := fun _ => hs.noError (by simp [idle])
      errorCause := fun he => by cases he
      page := fun _ => hs.page (by simp [idle])
      carry := fun _ => hs.carry (.inl idle) } rfl rfl
  | idles q => exact State.Sound.inv { hs with } h.view h.place h.continuing h.started
  | begins busy _ =>
    exact State.Sound.inv_of_assemble { hs with cursor := le_rfl, capacity := Nat.zero_le _ } busy rfl rfl
  | page p b busy hq hd hroom =>
    exact State.Sound.inv_of_assemble { hs with
      srcPos := hroom, pages := satAdd_lt 32 _ _, page := fun _ _ => acceptPage_pageOk hd _ } busy hq (h.started b busy hq)
  | segment b l busy _ valid hl fits =>
    have hsound : State.Sound { s with
        segCursor := s.segCursor + 1
        pkt := s.pkt ++ (s.pg.payload.drop s.payCursor).take l.toNat
        payCursor := s.payCursor + l.toNat
        pktContinuing := decide (l.toNat = 255)
        seq := if l.toNat = 255 then .assemble true else .packet } :=
      { hs with
        cursor := hs.cursor.trans (by simp)
        capacity := le_trans (by simp) fits
        page := fun hp hv => (hs.page hp hv).segment hl rfl rfl rfl }
    by_cases hmore : l.toNat = 255
    · exact hsound.inv_of_assemble busy (if_pos hmore) (decide_eq_true hmore)
    · have hq : (if l.toNat = 255 then Seq.assemble true else .packet) = .packet := if_neg hmore
      exact hsound.inv_of_within rfl busy (by rw [hq]; rfl) (decide_eq_false hmore)
  | ends audio =>
    refine State.Sound.inv_of_rest { hs with
      noError := fun _ => hs.noError (by simp [audio])
      errorCause := fun he => by cases he
      page := fun _ => hs.page (by simp [audio])
      carry := fun hp => by simp at hp } rfl rfl
  | decodes _ p place e hw =>
    have hc := h.continuing place.running place.decoding
    exact (e.sound hs).inv_of_within (e.phase.trans place.phase) place.busy hw (e.pktContinuing.trans hc)
  | header u v _ hc e hv move => exact ((e.sound hs).nextPhase hv (e.phase ▸ move)).completePacket hc
  | synthesizes f c n audio hq =>
    have hc := h.continuing (by rw [audio]; rfl) (by rw [hq]; rfl)
    exact State.Sound.inv_of_within { hs with carry := fun hp => by simp [audio] at hp } audio rfl rfl hc
  | stalls k j xs room audio hq =>
    have hc := h.continuing (by rw [audio]; rfl) (by rw [hq]; rfl)
    exact State.Sound.inv_of_within { hs with } audio rfl rfl hc
  | finishes k xs room _ audio hq hc =>
    unfold frameDone at hc
    refine State.Sound.completePacket ?_ hc
    exact { hs with frames := satAdd_lt 64 _ _ }
  | aborts u c i busy fails => exact (fails.inBounds hs.toInBounds).raise c i

end

end Sys2Proof.Machine
end

section
/-! What moves one way only: the phase, the output and the stream position. -/

namespace Sys2Proof.Machine

open Sys2Proof

/-- Settles O56, by the cases of `Stepped`. -/
theorem phaseMoves : Obligations.PhaseMoves := by
  unfold Obligations.PhaseMoves
  intro s t h hstep
  cases step_stepped h.place hstep with
  | resets src q hr => exact .inr (.inl ⟨rfl, hr⟩)
  | starts q hr idle => exact .inr (.inr (.inl ⟨idle, rfl, hr⟩))
  | ends audio => simp [audio]
  | decodes _ p place e hw => exact .inl e.phase
  | header u v _ hc e hv move =>
    obtain ⟨-, rfl⟩ := completePacket_next.1 hc
    refine .inr (.inr (.inr ?_))
    simp only [State.publish_phase, List.mem_cons] at move ⊢
    tauto
  | finishes k xs room _ audio hq hc =>
    obtain ⟨-, rfl⟩ := completePacket_next.1 hc
    exact .inl rfl
  | aborts u c i busy fails =>
    refine .inr (.inr (.inr ?_))
    cases hp : s.phase <;> simp [hp, Phase.busy] at busy ⊢
  | idles | begins | page | segment | synthesizes | stalls => exact .inl rfl

/-- Settles O59, by the cases of `Stepped`. -/
theorem streamMovesForward : Obligations.StreamMovesForward := by
  unfold Obligations.StreamMovesForward
  intro s t h hstep
  cases step_stepped h.place hstep with
  | resets src q hr => exact ⟨List.prefix_rfl, fun _ => rfl, .inr ⟨rfl, rfl, hr⟩, .inr ⟨rfl, .inl rfl⟩, rfl⟩
  | starts | ends => exact ⟨List.prefix_rfl, fun _ => rfl, .inl le_rfl, .inr ⟨rfl, .inl rfl⟩, rfl⟩
  | idles | begins | segment | synthesizes => exact ⟨List.prefix_rfl, fun _ => rfl, .inl le_rfl, .inl rfl, rfl⟩
  | page p b busy hq hd hroom => exact ⟨List.prefix_rfl, fun _ => rfl, .inl (Nat.le_add_right _ _), .inl rfl, rfl⟩
  | decodes _ p place e hw =>
    exact ⟨e.out ▸ List.prefix_rfl, fun _ => e.out, .inl e.srcPos.ge, .inl e.view, e.params⟩
  | header u v _ hc e hv move =>
    obtain ⟨-, rfl⟩ := completePacket_next.1 hc
    rw [hv]
    exact ⟨e.out ▸ List.prefix_rfl, fun _ => e.out, .inl e.srcPos.ge, .inr ⟨rfl, .inl rfl⟩, e.params⟩
  | stalls k j xs room audio hq => exact ⟨List.prefix_append _ _, fun hn => absurd hq (hn k), .inl le_rfl, .inl rfl, rfl⟩
  | finishes k xs room _ audio hq hc =>
    obtain ⟨-, rfl⟩ := completePacket_next.1 hc
    exact ⟨List.prefix_append _ _, fun hn => absurd hq (hn k), .inl le_rfl, .inr ⟨rfl, .inl rfl⟩, rfl⟩
  | aborts u c i busy fails =>
    exact ⟨fails.out ▸ List.prefix_rfl, fun _ => fails.out, .inl fails.srcPos_le, .inr ⟨rfl, .inr rfl⟩, fails.params⟩

end Sys2Proof.Machine
end

section
/-! The host's registers and its two acts (10_state.md R40 to R53). -/

namespace Sys2Proof.Machine

open Sys2Proof

/-! ### Host writes -/

theorem hostWrite_ctrl {w : HostWrite} {s : State} (hal : w.addr % 4 = 0) (hbase : w.addr = s.params.regsBase) :
    hostWrite w s = .next (writeCtrl w.value s) := by
  rw [hostWrite, if_neg (not_not.2 hal), if_pos hbase]

/-- A write of `CTRL`; one that resets the core during a wait on the source finds the bytes of the abandoned step taken
(70_reset_and_hazards.md R383). -/
theorem takeHostWrite_ctrl {w : HostWrite} {rest : List HostWrite} {s : State} (hal : w.addr % 4 = 0)
    (hbase : w.addr = s.params.regsBase) :
    takeHostWrite w rest s = .next (writeCtrl w.value { s with
      hostQ := rest, src := if s.waitsOnSource && w.value.getLsbD 1 then srcAfter s.src else s.src }) := by
  have hr : w.resets s.params.regsBase = w.value.getLsbD 1 := by
    rw [HostWrite.resets, decide_eq_true ⟨hal, hbase⟩, Bool.true_and]
  unfold takeHostWrite
  rw [hr]
  split
  · exact hostWrite_ctrl hal hbase
  · exact hostWrite_ctrl hal hbase

/-- A write at another register is ignored. -/
theorem takeHostWrite_other {w : HostWrite} {rest : List HostWrite} {s : State} (hal : w.addr % 4 = 0)
    (hbase : w.addr ≠ s.params.regsBase) : takeHostWrite w rest s = .next { s with hostQ := rest } := by
  simp [takeHostWrite, hostWrite, HostWrite.resets, hal, hbase]

theorem takeHostWrite_misaligned {w : HostWrite} (rest : List HostWrite) (s : State) (hal : w.addr % 4 ≠ 0) :
    takeHostWrite w rest s = .refused .hostAccess := by
  simp [takeHostWrite, hostWrite, hal]

theorem writeCtrl_reset {v : Word} (s : State) (h1 : v.getLsbD 1 = true) : writeCtrl v s = softReset s := if_pos h1

theorem writeCtrl_start {v : Word} {s : State} (h1 : v.getLsbD 1 = false) (h0 : v.getLsbD 0 = true) (hi : s.phase = .idle) :
    writeCtrl v s = { s with phase := .hdrId, seq := .boundary }.publish := by
  unfold writeCtrl startCore
  rw [h1, h0, hi]
  rfl

theorem writeCtrl_ignored {v : Word} {s : State} (h1 : v.getLsbD 1 = false)
    (h0 : v.getLsbD 0 = false ∨ s.phase ≠ .idle) : writeCtrl v s = s := by
  unfold writeCtrl startCore
  rw [h1]
  rcases h0 with h0 | hi
  · rw [h0]; rfl
  · rw [if_neg hi]; simp

/-- Settles O51: SRESET, START, an ignored `CTRL` write, another register, a misaligned address. -/
theorem hostControl : Obligations.HostControl := by
  unfold Obligations.HostControl
  intro s w rest hq hturn
  rw [step_host hq hturn]
  have hctrl (hal : w.addr % 4 = 0) (hbase : w.addr = s.params.regsBase) (h1 : w.value.getLsbD 1 = false) :
      takeHostWrite w rest s = .next (writeCtrl w.value { s with hostQ := rest }) := by
    rw [takeHostWrite_ctrl hal hbase, h1, Bool.and_false]
    rfl
  refine ⟨fun hal hbase h1 => ?_, fun hal hbase h1 h0 hi => ?_, fun hal hbase h1 h0 => ?_,
    takeHostWrite_other, takeHostWrite_misaligned rest s⟩
  · rw [takeHostWrite_ctrl hal hbase, writeCtrl_reset _ h1, h1, Bool.and_true]
    exact ⟨_, rfl, rfl, rfl⟩
  · exact ⟨_, (hctrl hal hbase h1).trans (congrArg _ (writeCtrl_start h1 h0 hi)), rfl, rfl⟩
  · exact (hctrl hal hbase h1).trans (congrArg _ (writeCtrl_ignored h1 h0))

/-! ### Host reads -/

/-- An aligned register at or above the base reads from what the host sees (20_memory.md R63). -/
theorem hostRead_add {s : State} {k : Nat} (hb : s.params.regsBase % 4 = 0) (hk : k % 4 = 0) :
    hostRead s (s.params.regsBase + k) = some (regAt s.view k) := by
  rw [hostRead, if_pos ⟨by omega, Nat.le_add_right _ _⟩, Nat.add_sub_cancel_left]

theorem regAt_of_unlisted (v : HostView) {k : Nat} (hk : 0x17 < k) : regAt v (4 * k) = 0 := by
  unfold regAt
  split <;> try omega
  rfl

/-- The fields of the `STATUS` word (10_state.md R42). -/
theorem status_fields (p : Phase) (a : Bool) (c : ErrClass) (w : Word)
    (hw : w = BitVec.ofNat 32 (p.number + 2 ^ 4 * p.busy.toNat + 2 ^ 5 * (decide (p = .error)).toNat
      + 2 ^ 6 * (decide (p = .done)).toNat + 2 ^ 7 * a.toNat + 2 ^ 8 * c.number)) :
    w.toNat % 8 = p.number ∧ w.getLsbD 3 = false ∧ w.getLsbD 4 = p.busy
      ∧ w.getLsbD 5 = decide (p = .error) ∧ w.getLsbD 6 = decide (p = .done)
      ∧ w.getLsbD 7 = a ∧ w.toNat / 2 ^ 8 = c.number := by
  subst hw
  cases p <;> cases a <;> cases c <;> decide

theorem loWord_toNat (v : BitVec 64) : (loWord v).toNat = v.toNat % 2 ^ 32 := by
  simp [loWord]

theorem hiWord_toNat (v : BitVec 64) : (hiWord v).toNat = v.toNat / 2 ^ 32 := by
  have := v.isLt
  rw [hiWord, BitVec.extractLsb'_toNat, Nat.shiftRight_eq_div_pow]
  omega

/-- The two words of a 64-bit register (10_state.md R47). -/
theorem loWord_add_hiWord (v : BitVec 64) : (loWord v).toNat + 2 ^ 32 * (hiWord v).toNat = v.toNat := by
  rw [loWord_toNat, hiWord_toNat]
  omega

/-- Settles O52: between two core steps what the host sees is the state's mirror, and the invariant bounds the counters. -/
theorem hostReads : Obligations.HostReads := by
  unfold Obligations.HostReads
  intro s h hb hbase
  have hv : s.view = s.mirror := h.view hb
  have read {k : Nat} (hk : k % 4 = 0 := by rfl) : hostRead s (s.params.regsBase + k) = some (regAt s.mirror k) :=
    hv ▸ hostRead_add hbase hk
  have word {n : Nat} (hn : n < 2 ^ 32) : (BitVec.ofNat 32 n).toNat = n := Nat.mod_eq_of_lt hn
  refine ⟨read (k := 0), ⟨_, read, status_fields s.phase s.warn.any s.err.cls _ rfl⟩, read, read, read, read,
    ⟨_, read, word h.exhausted⟩, ⟨_, read, word h.clamp⟩, read, read, read, read, ⟨_, read, word h.pages⟩,
    ⟨_, read, ?_⟩, ⟨_, _, read, read, ?_⟩, ⟨_, _, read, read, loWord_add_hiWord _⟩, read, read, read, read,
    fun hc => ⟨_, read, word ?_⟩, fun h0 h1 => ⟨_, read, word ?_⟩, fun k hk => ?_⟩
  · show (BitVec.ofNat 32 s.cnt.packetsDone).toNat = _
    rw [h.packets, word h.packetNo]
  · show (loWord (BitVec.ofNat 64 s.cnt.framesOut)).toNat + 2 ^ 32 * (hiWord (BitVec.ofNat 64 s.cnt.framesOut)).toNat = _
    rw [loWord_add_hiWord]
    exact Nat.mod_eq_of_lt h.frames
  · exact hc.channels.trans (by decide)
  · show s.cfg.e0 + 16 * s.cfg.e1 < 2 ^ 32
    omega
  · rw [hostRead_add hbase (by omega), regAt_of_unlisted _ hk]

end Sys2Proof.Machine
end

section
/-! Audio packets at their two ends: the head (46_audio_packet.md R300, R301) and the emission (47_synthesis.md R330). -/

namespace Sys2Proof.Machine

open Sys2Proof

/-! ### The head of an audio packet -/

theorem ilog_le_of_lt {x n : Nat} (h : x < 2 ^ n) : ilog x ≤ n := by
  unfold ilog
  split
  · exact Nat.zero_le n
  · exact (Nat.log2_lt ‹_›).2 h

theorem modeWidth_le {s : State} (h : s.Unclamped) : ∀ w ∈ [1, modeWidth s.nModes], w ≤ 32 := by
  have hm : modeWidth s.nModes ≤ 6 := ilog_le_of_lt (by have := h.modes; omega)
  intro w hw
  simp only [List.mem_cons, List.not_mem_nil, or_false] at hw
  omega

/-- A mode number that is a mode's starts a frame of it. -/
theorem execAudioPacket_mode {s : State} {k : Nat} {m : ModeConfig} (hk : k < s.nModes) (hm : s.modes[k]? = some m) :
    execAudioPacket k s =
      .next { State.clearFrameFlags { s.skips [1, modeWidth s.nModes] with
          frame := Frame.start s.cfg.channels k (if m.blockflag then s.cfg.bs1 else s.cfg.bs0) m.blockflag } with
        seq := if m.blockflag then .window else s.floorSeq 0 } := by
  unfold execAudioPacket
  rw [if_neg (Nat.not_le.2 hk)]
  dsimp only [State.skips_modes]
  rw [hm]
  rfl

/-- Rows added for channels without one hold no flag (10_state.md R26). -/
theorem getD_append_replicate_nil (l : List (List Bool)) (n ch k : Nat) :
    ((l ++ List.replicate n []).getD ch []).getD k false = (l.getD ch []).getD k false := by
  simp only [List.getD_eq_getElem?_getD, List.getElem?_append, List.getElem?_replicate]
  split
  · rfl
  · rw [List.getElem?_eq_none (l := l) (by omega)]
    split <;> rfl

/-- A new frame has a row for each channel in every buffer that the floor curves write (log 8). -/
theorem floorRows_of_start {t : State} {channels mode n : Nat} {b : Bool} (hf : t.frame = Frame.start channels mode n b)
    (hu : channels ≤ t.floorUsed.length) : t.floorRows channels := by
  rw [State.floorRows, hf]
  simpa [Frame.start] using hu

/-- Settles O45: a mode's frame is started, another mode number aborts, and the window flags are stored. -/
theorem audioPacketHead : Obligations.AudioPacketHead := by
  unfold Obligations.AudioPacketHead
  refine ⟨fun s k m hk hm => ?_, fun s k hk => ?_, fun s prev next => ?_⟩
  · refine ⟨_, execAudioPacket_mode hk hm, rfl, rfl, rfl, rfl, fun _ => ⟨rfl, rfl⟩,
      getD_append_replicate_nil s.floorUsed _, floorRows_of_start rfl ?_, ?_, ?_,
      fun h hc => readBy_skips h (modeWidth_le hc) rfl rfl⟩
    · show s.cfg.channels ≤ (s.floorUsed ++ List.replicate (s.cfg.channels - s.floorUsed.length) []).length
      rw [List.length_append, List.length_replicate]
      omega
    · exact (List.length_replicate ..).ge
    · exact (List.length_replicate ..).ge
  · have h : execAudioPacket k s = .next ((s.skips [1, modeWidth s.nModes]).raise .audioMode k) := if_pos hk
    exact ⟨_, h, ⟨rfl, rfl, rfl⟩, rfl, fun h hc => readBy_skips h (modeWidth_le hc) rfl rfl⟩
  · exact ⟨_, rfl, rfl, fun h => readBy_skips h (by decide) rfl rfl⟩

/-! ### Emission -/

theorem sinkTakes_of_room {room : Option Nat} {left : Nat} (h : ∀ n, room = some n → left ≤ n) :
    sinkTakes room left = left := by
  unfold sinkTakes
  split
  · rfl
  · exact Nat.min_eq_right (h _ rfl)

/-- Settles O49: the sink takes the rest of `OUTBUF`, or as much as it has room for. -/
theorem emission : Obligations.Emission := by
  unfold Obligations.Emission
  intro s k hq hb hseq
  have hstep : step s = emit k s := by
    rw [step_busy hq hb, fetchCore, hseq]
  rw [hstep]
  refine ⟨fun hroom hno => ?_, fun n hn hlt => ?_⟩
  · have hemit : emit k s = frameDone { s with
        out := s.out ++ s.frame.outbuf.drop k
        sinkRoom := s.sinkRoom.map (fun n => n - (s.frame.outbuf.drop k).length) } := by
      simp only [emit, sinkTakes_of_room hroom, if_true, List.take_length]
    exact ⟨_, hemit.trans (completePacket_next.2 ⟨hno, rfl⟩), rfl, rfl⟩
  · have hm : sinkTakes (some n) (s.frame.outbuf.drop k).length = n := Nat.min_eq_left hlt.le
    simp only [emit, hn, hm, if_neg hlt.ne, Option.map_some, Nat.sub_self]

end Sys2Proof.Machine
end

section
/-! A page that does not come (40_ogg_demuxer.md R120, R121, 60_exceptions.md R355). -/

namespace Sys2Proof.Machine

open Sys2Proof

/-! ### The answers of the source -/

theorem srcBytes_append (bytes : List Byte) (after : List SrcAnswer) :
    srcBytes (bytes.map .byte ++ after) = bytes ++ srcBytes after := by
  induction bytes with
  | nil => rfl
  | cons b bytes ih => exact congrArg (b :: ·) ih

theorem srcAfter_append (bytes : List Byte) (after : List SrcAnswer) :
    srcAfter (bytes.map .byte ++ after) = srcAfter after := by
  induction bytes with
  | nil => rfl
  | cons b bytes ih => exact ih

theorem drop_map_byte (bytes : List Byte) (after : List SrcAnswer) :
    (bytes.map SrcAnswer.byte ++ after).drop bytes.length = after := by
  rw [List.drop_append, List.length_map]
  simp

/-! ### The header checks -/

theorem leNat_lt (bytes : List Byte) : leNat bytes < 256 ^ bytes.length := by
  induction bytes with
  | nil => exact Nat.one_pos
  | cons b bytes ih =>
    have hb := b.isLt
    rw [leNat, List.length_cons, Nat.pow_succ]
    omega

/-- The capture field is right as a word when it is as a number. -/
theorem capture_eq_iff (bytes : List Byte) :
    BitVec.ofNat 32 (leNat (bytes.take 4)) = 0x5367674F ↔ leNat (bytes.take 4) = 0x5367674F := by
  have hlt : leNat (bytes.take 4) < 2 ^ 32 :=
    (leNat_lt _).trans_le (Nat.pow_le_pow_right (by decide) (List.length_take_le 4 bytes))
  rw [← BitVec.toNat_inj, BitVec.toNat_ofNat, Nat.mod_eq_of_lt hlt]
  rfl

section
variable {bytes : List Byte}

theorem header_not_short (h : 27 ≤ bytes.length) : ¬ bytes.length < headerBytes := Nat.not_lt.2 h

/-- The checks look at the 27 header bytes only. -/
theorem checked_append (h : 27 ≤ bytes.length) (more : List Byte) (p : PageRec) :
    p.checked (bytes ++ more) = p.checked bytes := by
  rw [PageRec.checked, List.take_append_of_le_length (by omega), List.getD_append _ _ _ _ (by omega),
    List.getD_append _ _ _ _ (by omega)]
  rfl

/-- The check of `c` is the first that fails, in field order (40_ogg_demuxer.md R121). -/
def headerFails (bytes : List Byte) (c : ErrCode) : Prop :=
  c = .pageCapture ∧ leNat (bytes.take 4) ≠ 0x5367674F
    ∨ c = .pageVersion ∧ leNat (bytes.take 4) = 0x5367674F ∧ bytes.getD 4 0 ≠ 0
    ∨ c = .pageHtype ∧ leNat (bytes.take 4) = 0x5367674F ∧ bytes.getD 4 0 = 0 ∧ 7 < (bytes.getD 5 0).toNat

theorem checkHeader_of_fails {c : ErrCode} (h : headerFails bytes c) : checkHeader bytes = some c := by
  rcases h with ⟨rfl, h1⟩ | ⟨rfl, h1, h2⟩ | ⟨rfl, h1, h2, h3⟩
  · exact if_pos h1
  · rw [checkHeader, if_neg (not_not.2 h1), if_pos h2]
  · rw [checkHeader, if_neg (not_not.2 h1), if_neg (not_not.2 h2), if_pos h3]

/-- The fields up to the failing one are written. -/
theorem checked_of_fails {c : ErrCode} (h : headerFails bytes c) (p : PageRec) :
    p.checked bytes = { p with
      capture := BitVec.ofNat 32 (leNat (bytes.take 4))
      version := if c = .pageCapture then p.version else bytes.getD 4 0
      htype := if c = .pageHtype then bytes.getD 5 0 else p.htype } := by
  rcases h with ⟨rfl, h1⟩ | ⟨rfl, h1, h2⟩ | ⟨rfl, h1, h2, h3⟩
  · exact if_pos fun h => h1 ((capture_eq_iff bytes).1 h)
  · rw [PageRec.checked, if_neg (not_not.2 ((capture_eq_iff bytes).2 h1)), if_pos h2]
    rfl
  · rw [PageRec.checked, if_neg (not_not.2 ((capture_eq_iff bytes).2 h1)), if_neg (not_not.2 h2)]
    rfl

theorem decodePage_of_fails {c : ErrCode} (hlen : 27 ≤ bytes.length) (h : headerFails bytes c) :
    decodePage bytes = .illegal c := by
  rw [decodePage, if_neg (header_not_short hlen), checkHeader_of_fails h]

theorem headerFails_append {c : ErrCode} (h : headerFails bytes c) (hlen : 27 ≤ bytes.length) (more : List Byte) :
    headerFails (bytes ++ more) c := by
  unfold headerFails
  rwa [List.take_append_of_le_length (by omega), List.getD_append _ _ _ _ (by omega), List.getD_append _ _ _ _ (by omega)]

/-- Of a page that is too short the header, where it is there, is legal. -/
theorem legal_of_short (h : decodePage bytes = .short) (hlen : 27 ≤ bytes.length) :
    leNat (bytes.take 4) = 0x5367674F ∧ bytes.getD 4 0 = 0 ∧ (bytes.getD 5 0).toNat ≤ 7 := by
  rw [decodePage, if_neg (header_not_short hlen)] at h
  cases hc : checkHeader bytes with
  | some c => rw [hc] at h; cases h
  | none =>
    unfold checkHeader at hc
    split_ifs at hc with h1 h2 h3
    exact ⟨not_not.1 h1, not_not.1 h2, Nat.not_lt.1 h3⟩

/-! ### The page record after a part of a page -/

/-- A buffer of `n` bytes after those that have come of it, from byte `o` of the page on. -/
theorem overwrite_take_getElem? (old : List Byte) (o : Nat) {n k : Nat} (hk : k < n) :
    ((overwrite ((bytes.drop o).take n) old).take n)[k]? = if o + k < bytes.length then bytes[o + k]? else old[k]? := by
  rw [List.getElem?_take_of_lt hk, overwrite_getElem?, List.getElem?_take_of_lt hk, List.getElem?_drop]
  simp only [List.length_take, List.length_drop]
  congr 1
  exact propext (by omega)

theorem zeroExtend_ofNat_of_le {b : Byte} (h : b.toNat ≤ 7) : (BitVec.ofNat 3 b.toNat).zeroExtend 8 = b := by
  apply BitVec.eq_of_toNat_eq
  simp
  omega

theorem partly_partlyRead (h : decodePage bytes = .short) (p : PageRec) : partlyRead bytes p (p.partly bytes) := by
  refine ⟨fun hlen => if_pos hlen, fun hlen => ?_⟩
  obtain ⟨-, -, h7⟩ := legal_of_short h hlen
  rw [PageRec.partly, if_neg (header_not_short hlen)]
  refine ⟨rfl, rfl, zeroExtend_ofNat_of_le h7, rfl, rfl, rfl, rfl, rfl, fun k hk => overwrite_take_getElem? p.seg 27 hk,
    List.length_take_le _ _, fun hs => if_pos hs, fun hs => ?_⟩
  have hseg : (overwrite (pageOf bytes).segs p.seg).take (bytes.getD 26 0).toNat = segsOf bytes :=
    List.take_left' (List.length_take_of_le (by rw [List.length_drop]; exact Nat.le_sub_of_add_le' hs))
  dsimp only at hs ⊢
  rw [hseg, if_neg (show ¬ bytes.length < headerBytes + _ from Nat.not_lt.2 hs)]
  exact ⟨fun k hk => overwrite_take_getElem? p.payload _ hk, List.length_take_le _ _⟩

end

/-! ### The step -/

section
variable {s : State} {b : Bool}

theorem step_assemble (hq : s.hostQ = []) (hb : s.phase.busy = true) (hseq : s.seq = .assemble b) :
    step s = (fetchSegment b s).outcome s := by
  rw [step_busy hq hb, fetchCore, hseq]
  rfl

theorem step_short (hq : s.hostQ = []) (hb : s.phase.busy = true) (hseq : s.seq = .assemble b) (hn : s.needsPage = true)
    (hd : decodePage (srcBytes s.src) = .short) : step s = pageShort b (srcBytes s.src) s := by
  rw [step_assemble hq hb hseq, fetchSegment, if_pos hn, hd]
  rfl

theorem step_illegal {c : ErrCode} (hq : s.hostQ = []) (hb : s.phase.busy = true) (hseq : s.seq = .assemble b)
    (hn : s.needsPage = true) (hd : decodePage (srcBytes s.src) = .illegal c) :
    step s = pageIllegal (srcBytes s.src) c s := by
  rw [step_assemble hq hb hseq, fetchSegment, if_pos hn, hd]
  rfl

theorem takeThen_of_lt {k : Nat} {f : State → Host.Outcome State Fault Refusal} (h : s.srcPos + k < 2 ^ 64) :
    takeThen k s f = f (s.takeSrc k) := if_neg (Nat.not_le.2 h)

end

/-- Settles O11: the failing header check, the end of the stream inside the page, the failing source, the waiting source. -/
theorem pageFailures : Obligations.PageFailures := by
  unfold Obligations.PageFailures
  intro s b bytes after hq hb hseq hn hsrc hpos
  have hbytes : srcBytes s.src = bytes ++ srcBytes after := by rw [hsrc, srcBytes_append]
  have hafter : srcAfter s.src = srcAfter after := by rw [hsrc, srcAfter_append]
  have hdrop : s.src.drop bytes.length = after := by rw [hsrc, drop_map_byte]
  refine ⟨fun hlen c hc => ?_, fun hshort => ?_⟩
  · have hfail := headerFails_append hc hlen (srcBytes after)
    rw [step_illegal hq hb hseq hn (hbytes ▸ decodePage_of_fails (by simp; omega) hfail), hbytes, pageIllegal,
      takeThen_of_lt (k := headerBytes) (by rw [headerBytes]; omega), checked_append hlen, checked_of_fails hc]
    exact ⟨_, rfl, ⟨rfl, rfl, rfl⟩, rfl⟩
  have hstep (hnone : srcBytes after = []) : step s = pageShort b bytes s := by
    have hall : srcBytes s.src = bytes := by rw [hbytes, hnone, List.append_nil]
    rw [step_short hq hb hseq hn (hall.symm ▸ hshort), hall]
  refine ⟨fun heos hne => ?_, fun hio => ?_, fun hnil => ?_⟩
  · obtain ⟨rest, rfl⟩ := List.head?_eq_some_iff.1 heos
    rw [hstep rfl, pageShort, hafter]
    dsimp only [srcAfter]
    rw [if_neg (by simpa using hne), pageTruncated, takeThen_of_lt hpos]
    refine ⟨_, rfl, ⟨rfl, rfl, rfl⟩, ?_, partly_partlyRead hshort s.pg⟩
    rw [← hdrop]
    rfl
  · obtain ⟨rest, rfl⟩ := List.head?_eq_some_iff.1 hio
    rw [hstep rfl, pageShort, hafter]
    dsimp only [srcAfter]
    rw [ioError, takeThen_of_lt hpos]
    refine ⟨_, rfl, ⟨rfl, rfl, rfl⟩, ?_, partly_partlyRead hshort s.pg⟩
    rw [← hdrop, ← List.drop_one]
    rfl
  · subst hnil
    rw [hstep rfl, pageShort, hafter]
    rfl

end Sys2Proof.Machine
end

section
/-! The floor curves of a frame (44_floor1.md R260 to R266, 46_audio_packet.md R302, R303). -/

namespace Sys2Proof.Machine

open Sys2Proof

/-! ### The curve of one channel -/

theorem writeSegment_length (curve : List Int) (x0 : Nat) (seg : List Int) :
    (writeSegment curve x0 seg).length = curve.length := by
  simp only [writeSegment, List.length_append, List.length_take, List.length_drop]
  omega

theorem curveStep_length (m : Nat) (c : CurveState) (p : FloorPoint) : (curveStep m c p).curve.length = c.curve.length := by
  unfold curveStep
  split
  · exact writeSegment_length _ _ _
  · rfl

theorem foldl_curveStep_length (m : Nat) (ps : List FloorPoint) :
    ∀ c : CurveState, (ps.foldl (curveStep m) c).curve.length = c.curve.length := by
  induction ps with
  | nil => exact fun _ => rfl
  | cons p ps ih => exact fun c => (ih _).trans (curveStep_length m c p)

/-- The curve is as long as half the block (44_floor1.md R264). -/
theorem floorCurve_length (m h : Nat) (sorted : List FloorPoint) : (floorCurve m h sorted).length = h := by
  unfold floorCurve
  split
  · exact List.length_replicate
  · rename_i p0 ps
    have hlen := foldl_curveStep_length m ps { curve := List.replicate h 0, x := 0, y := p0.y * m }
    rw [List.length_replicate] at hlen
    dsimp only
    split
    · exact (writeSegment_length _ _ _).trans hlen
    · exact hlen

theorem amplitudesOk_iff (curve : List Int) : amplitudesOk curve = true ↔ ∀ a ∈ curve, 0 ≤ a ∧ a ≤ 255 := by
  simp [amplitudesOk]

/-- The mapping takes each amplitude to its entry of the table (44_floor1.md R265). -/
theorem invDbMap_getElem? {table : List F32} (curve : List Int) :
    ∀ {vec : List F32}, invDbMap table curve = some vec →
      vec.length = curve.length
        ∧ ∀ (x : Nat) (a : Int), curve[x]? = some a → vec[x]? = table[a.toNat]? ∧ a.toNat < table.length := by
  induction curve with
  | nil => rintro _ ⟨⟩; simp
  | cons a curve ih =>
    intro vec h
    simp only [invDbMap] at h
    split at h
    · rename_i f fs hf hfs
      cases h
      obtain ⟨hlen, hget⟩ := ih hfs
      refine ⟨congrArg (· + 1) hlen, fun x b hx => ?_⟩
      cases x with
      | zero =>
        obtain rfl : a = b := by simpa using hx
        exact ⟨hf.symm, (List.getElem?_eq_some_iff.1 hf).1⟩
      | succ x => exact hget x b hx
    · cases h

theorem invDbMap_isSome {table : List F32} (curve : List Int) (h : ∀ a ∈ curve, a.toNat < table.length) :
    ∃ vec, invDbMap table curve = some vec := by
  induction curve with
  | nil => exact ⟨[], rfl⟩
  | cons a curve ih =>
    obtain ⟨fs, hfs⟩ := ih fun b hb => h b (List.mem_cons_of_mem a hb)
    exact ⟨table[a.toNat]'(h a List.mem_cons_self) :: fs, by
      simp only [invDbMap, hfs, List.getElem?_eq_getElem (h a List.mem_cons_self)]⟩

section
variable {p : Params} {h : Nat} {f : FloorConfig} {y : List Nat} {finalY : List Int} {used : List Bool}

/-- The curve that step 2 leads to (44_floor1.md R262 to R264). -/
def FloorConfig.curveOf (f : FloorConfig) (h : Nat) (finalY : List Int) (used : List Bool) : List Int :=
  floorCurve f.multiplier h (sortPoints (floorPoints f.xs finalY used))

theorem floorVector_of_step2 (hs : floorStep2 f y = some (finalY, used)) :
    floorVector p h f y =
      if amplitudesOk (f.curveOf h finalY used) then
        match invDbMap p.invDb (f.curveOf h finalY used) with
        | none => .stuck .bufferBounds
        | some vec => .ok finalY used (f.curveOf h finalY used) vec
      else .amplitude finalY used (f.curveOf h finalY used) := by
  unfold floorVector
  rw [hs]
  rfl

/-- A vector comes out of step 2, the curve, and the table (44_floor1.md R266). -/
theorem floorVector_ok {curve : List Int} {vec : List F32} (hv : floorVector p h f y = .ok finalY used curve vec) :
    floorStep2 f y = some (finalY, used) ∧ curve = f.curveOf h finalY used ∧ amplitudesOk curve = true
      ∧ invDbMap p.invDb curve = some vec := by
  cases hs : floorStep2 f y with
  | none => simp [floorVector, hs] at hv
  | some fu =>
    rw [floorVector_of_step2 hs] at hv
    split at hv
    · split at hv
      · cases hv
      · cases hv
        exact ⟨rfl, rfl, ‹_›, ‹_›⟩
    · cases hv

end

/-! ### The curves of a frame, channel by channel -/

/-- A channel is silent or has a vector. -/
def State.curveReady (s : State) (ch : Nat) : Prop :=
  s.floorUnused.getD ch false = true
    ∨ ∃ f finalY used curve vec, s.channelFloor ch = some f
      ∧ floorVector s.params (s.frame.n / 2) f (s.frame.floorY.getD ch []) = .ok finalY used curve vec

/-- `s` with what `floor_vector` writes as it stands in `t`. -/
def State.curvesOf (s t : State) : State :=
  { s with
    floorUsed := t.floorUsed
    frame := { s.frame with
      floor := t.frame.floor, floorFinalY := t.frame.floorFinalY, floorInt := t.frame.floorInt } }

/-- Between `s` and `t` the curves of the channels before `k` are stored, and nothing else is written. -/
structure State.CurvesTo (s t : State) (k : Nat) : Prop where
  frame : t = s.curvesOf t
  stored : ∀ ch < k, s.floorDone t ch
  kept : ∀ ch, k ≤ ch → s.floorKept t ch

section
variable {s t u v : State} {k n ch : Nat}

theorem State.floorKept.refl (s : State) (ch : Nat) : s.floorKept s ch := ⟨rfl, rfl, rfl, rfl⟩

theorem State.floorKept.trans (h : s.floorKept t ch) (hv : t.floorKept v ch) : s.floorKept v ch := by
  obtain ⟨h1, h2, h3, h4⟩ := h
  obtain ⟨k1, k2, k3, k4⟩ := hv
  exact ⟨k1.trans h1, k2.trans h2, k3.trans h3, k4.trans h4⟩

theorem State.floorDone.trans (h : s.floorDone t ch) (hv : t.floorKept v ch) : s.floorDone v ch := by
  obtain ⟨k1, k2, k3, k4⟩ := hv
  rw [State.floorDone, k1, k2, k3, k4]
  exact h

theorem storeCurve_floorKept (hne : k ≠ ch) (y : List Int) (used : List Bool) (c : List Int) :
    s.floorKept (s.storeCurve k y used c) ch :=
  ⟨rfl, List.getElem?_set_ne hne, List.getElem?_set_ne hne, List.getElem?_set_ne hne⟩

theorem storeFloor_floorKept (hne : k ≠ ch) (vec : List F32) : s.floorKept (s.storeFloor k vec) ch :=
  ⟨List.getElem?_set_ne hne, rfl, rfl, rfl⟩

theorem lt_length_of_getElem?_eq {α : Type} {l l' : List α} (h : l'[k]? = l[k]?) (hk : k < l.length) : k < l'.length := by
  rw [List.getElem?_eq_getElem hk] at h
  exact (List.getElem?_eq_some_iff.1 h).1

/-- A channel of which nothing is written still has its row. -/
theorem State.floorKept.rows (h : s.floorKept t k) (hr : s.floorRows n) (hk : k < n) : t.floorRows (k + 1) := by
  obtain ⟨h1, h2, h3, h4⟩ := h
  obtain ⟨r1, r2, r3, r4⟩ := hr
  exact ⟨lt_length_of_getElem?_eq h1 (by omega), lt_length_of_getElem?_eq h2 (by omega),
    lt_length_of_getElem?_eq h3 (by omega), lt_length_of_getElem?_eq h4 (by omega)⟩

/-- What step 2 and the curve write of their channel (44_floor1.md R260, R264). -/
theorem storeCurve_row (h : s.floorRows (k + 1)) (y : List Int) (used : List Bool) (c : List Int) :
    (s.storeCurve k y used c).frame.floorFinalY[k]? = some y ∧ (s.storeCurve k y used c).frame.floorInt[k]? = some c
      ∧ (s.storeCurve k y used c).floorUsed[k]? = some (used ++ (s.floorUsed.getD k []).drop used.length) := by
  obtain ⟨-, hy, hc, hu⟩ := h
  exact ⟨List.getElem?_set_self hy, List.getElem?_set_self hc, List.getElem?_set_self hu⟩

theorem State.CurvesTo.refl (s : State) : s.CurvesTo s 0 :=
  ⟨rfl, fun _ h => absurd h (Nat.not_lt_zero _), fun _ _ => .refl s _⟩

/-- The next channel's curve is stored; the others are left alone. -/
theorem State.CurvesTo.next (h : s.CurvesTo u k) (hframe : v = u.curvesOf v) (hk : s.floorDone v k)
    (hother : ∀ ch, k ≠ ch → u.floorKept v ch) : s.CurvesTo v (k + 1) where
  frame := hframe.trans (by rw [h.frame]; rfl)
  stored := fun ch hch => by
    rcases Nat.lt_succ_iff_lt_or_eq.1 hch with hlt | rfl
    · exact (h.stored ch hlt).trans (hother ch hlt.ne')
    · exact hk
  kept := fun ch hch => (h.kept ch (by omega)).trans (hother ch (by omega))

theorem State.CurvesTo.floorUnused (h : s.CurvesTo u k) : u.floorUnused = s.floorUnused :=
  (congrArg State.floorUnused h.frame :)

theorem State.CurvesTo.halfBlock (h : s.CurvesTo u k) : u.frame.n / 2 = s.frame.n / 2 :=
  (congrArg (fun v : State => v.frame.n / 2) h.frame :)

theorem State.CurvesTo.channelFloor (h : s.CurvesTo u k) (ch : Nat) : u.channelFloor ch = s.channelFloor ch :=
  (congrArg (fun v : State => v.channelFloor ch) h.frame :)

theorem State.CurvesTo.floorVector (h : s.CurvesTo u k) (f : FloorConfig) (ch : Nat) :
    floorVector u.params (u.frame.n / 2) f (u.frame.floorY.getD ch [])
      = floorVector s.params (s.frame.n / 2) f (s.frame.floorY.getD ch []) := by
  rw [h.frame]
  rfl

/-- The used flags of a channel whose curve is not stored yet are those before the curves. -/
theorem State.CurvesTo.floorUsed (h : s.CurvesTo u k) : u.floorUsed.getD k [] = s.floorUsed.getD k [] := by
  obtain ⟨-, -, -, hused⟩ := h.kept k le_rfl
  rw [List.getD_eq_getElem?_getD, hused, ← List.getD_eq_getElem?_getD]

theorem channelVector_silent (h : s.floorUnused.getD k false = true) :
    channelVector k s = .inl (s.storeFloor k (List.replicate (s.frame.n / 2) F32.zero)) := if_pos h

/-- A silent channel gets its zeros. -/
theorem State.CurvesTo.silent (h : s.CurvesTo u k) (hr : s.floorRows n) (hk : k < n)
    (hu : s.floorUnused.getD k false = true) : ∃ v, channelVector k u = .inl v ∧ s.CurvesTo v (k + 1) := by
  obtain ⟨hrow, -, -, -⟩ := (h.kept k le_rfl).rows hr hk
  obtain ⟨-, hy, hc, hused⟩ := h.kept k le_rfl
  refine ⟨_, channelVector_silent (h.floorUnused ▸ hu), h.next rfl ?_ fun ch hne => storeFloor_floorKept hne _⟩
  refine ⟨fun _ => ⟨?_, hy, hc, hused⟩, fun hf => absurd (hf.symm.trans hu) Bool.false_ne_true⟩
  rw [← h.halfBlock]
  exact List.getElem?_set_self hrow

/-- A channel with a vector gets it, with its curve. -/
theorem State.CurvesTo.vector (h : s.CurvesTo u k) (hr : s.floorRows n) (hk : k < n)
    (hu : s.floorUnused.getD k false = false) {f : FloorConfig} {finalY : List Int} {used : List Bool} {curve : List Int}
    {vec : List F32} (hf : s.channelFloor k = some f)
    (hv : Machine.floorVector s.params (s.frame.n / 2) f (s.frame.floorY.getD k []) = .ok finalY used curve vec) :
    ∃ v, channelVector k u = .inl v ∧ s.CurvesTo v (k + 1) := by
  have hrows := (h.kept k le_rfl).rows hr hk
  obtain ⟨hy, hc, hused⟩ := storeCurve_row hrows finalY used curve
  have hinl := channelVector_inl.2 (.inr ⟨h.floorUnused ▸ hu, f, finalY, used, curve, vec, (h.channelFloor k).trans hf,
    (h.floorVector f k).trans hv, rfl⟩)
  refine ⟨_, hinl, h.next rfl ?_ fun ch hne => (storeCurve_floorKept hne _ _ _).trans (storeFloor_floorKept hne _)⟩
  refine ⟨fun ht => absurd (hu.symm.trans ht) Bool.false_ne_true, fun _ f' finalY' used' curve' vec' hf' hv' => ?_⟩
  obtain rfl := Option.some.inj (hf.symm.trans hf')
  obtain ⟨rfl, rfl, rfl, rfl⟩ := FloorResult.ok.inj (hv.symm.trans hv')
  rw [h.floorUsed] at hused
  exact ⟨List.getElem?_set_self hrows.1, hy, hc, hused⟩

theorem State.CurvesTo.channelVector (h : s.CurvesTo u k) (hr : s.floorRows n) (hk : k < n) (ready : s.curveReady k) :
    ∃ v, channelVector k u = .inl v ∧ s.CurvesTo v (k + 1) := by
  cases hu : s.floorUnused.getD k false with
  | true => exact h.silent hr hk hu
  | false =>
    obtain hu' | ⟨f, finalY, used, curve, vec, hf, hv⟩ := ready
    · rw [hu] at hu'
      cases hu'
    · exact h.vector hr hk hu hf hv

/-- A channel with an amplitude outside the table ends the step (44_floor1.md R266). -/
theorem State.CurvesTo.amplitude (h : s.CurvesTo u k) (hu : s.floorUnused.getD k false = false) {f : FloorConfig}
    {finalY : List Int} {used : List Bool} {curve : List Int} (hf : s.channelFloor k = some f)
    (hv : Machine.floorVector s.params (s.frame.n / 2) f (s.frame.floorY.getD k []) = .amplitude finalY used curve) :
    Machine.channelVector k u = .inr (.next ((u.storeCurve k finalY used curve).raise .floorAmplitude k)) := by
  have hu' : ¬ u.floorUnused.getD k false = true := by rw [h.floorUnused, hu]; exact Bool.false_ne_true
  rw [Machine.channelVector, if_neg hu', h.channelFloor, hf]
  dsimp only
  rw [h.floorVector, hv]
  rfl

/-! ### The loop over the channels -/

theorem floorVectors_append (a b : List Nat) :
    ∀ {s t : State}, floorVectors a s = .inl t → floorVectors (a ++ b) s = floorVectors b t := by
  induction a with
  | nil => rintro s _ ⟨⟩; rfl
  | cons ch a ih =>
    intro s t h
    simp only [List.cons_append, floorVectors] at h ⊢
    split at h
    · cases h
    · exact ih h

/-- The curves of channels that are all silent or have a vector are stored one after the other. -/
theorem floorVectors_range (hr : s.floorRows n) :
    ∀ k ≤ n, (∀ ch < k, s.curveReady ch) → ∃ t, floorVectors (List.range k) s = .inl t ∧ s.CurvesTo t k := by
  intro k
  induction k with
  | zero => exact fun _ _ => ⟨s, rfl, .refl s⟩
  | succ k ih =>
    intro hk ready
    obtain ⟨u, hu, hcu⟩ := ih (by omega) fun ch hch => ready ch (by omega)
    obtain ⟨v, hv, hcv⟩ := hcu.channelVector hr hk (ready k (by omega))
    refine ⟨v, ?_, hcv⟩
    rw [List.range_succ, floorVectors_append _ _ hu, floorVectors, hv]
    rfl

/-- The first channel that ends the step ends the loop. -/
theorem floorVectors_of_inr {o : Host.Outcome State Fault Refusal} (hk : k < n)
    (hu : floorVectors (List.range k) s = .inl u) (ho : channelVector k u = .inr o) :
    floorVectors (List.range n) s = .inr o := by
  obtain ⟨m, rfl⟩ : ∃ m, n = k + (m + 1) := ⟨n - k - 1, by omega⟩
  rw [List.range_add, floorVectors_append _ _ hu, List.range_succ_eq_map, List.map_cons, floorVectors, Nat.add_zero, ho]

/-! ### A frame in which every channel is silent -/

theorem propagate_silent {steps : List (Nat × Nat)} (h : ∀ st ∈ steps, st.1 < n ∧ st.2 < n) :
    propagate steps (List.replicate n true) = List.replicate n true := by
  induction steps with
  | nil => rfl
  | cons st steps ih =>
    obtain ⟨h1, h2⟩ := h st List.mem_cons_self
    have hst : propagateStep (List.replicate n true) st.1 st.2 = List.replicate n true := by
      simp [propagateStep, List.getD_eq_getElem?_getD, h1, h2]
    rw [propagate, List.foldl_cons, hst]
    exact ih fun st' hm => h st' (List.mem_cons_of_mem st hm)

/-- Zeros for the first `k` channels (44_floor1.md R266). -/
theorem floorVectors_silent (hlen : s.frame.floor.length = n) (hu : s.floorUnused = List.replicate n true) :
    ∀ k ≤ n, floorVectors (List.range k) s = .inl { s with
      frame := { s.frame with
        floor := List.replicate k (List.replicate (s.frame.n / 2) F32.zero) ++ s.frame.floor.drop k } } := by
  intro k
  induction k with
  | zero => exact fun _ => rfl
  | succ k ih =>
    intro hk
    have hset : (List.replicate k (List.replicate (s.frame.n / 2) F32.zero) ++ s.frame.floor.drop k).set k
        (List.replicate (s.frame.n / 2) F32.zero)
          = List.replicate (k + 1) (List.replicate (s.frame.n / 2) F32.zero) ++ s.frame.floor.drop (k + 1) := by
      rw [List.set_append_right _ _ (by simp), List.length_replicate, Nat.sub_self,
        List.drop_eq_getElem_cons (by omega), List.set_cons_zero, List.replicate_succ', List.append_assoc]
      rfl
    have hsilent : s.floorUnused.getD k false = true := by
      simp [hu, List.getD_eq_getElem?_getD, Nat.lt_of_succ_le hk]
    rw [List.range_succ, floorVectors_append _ _ (ih (by omega)), floorVectors,
      channelVector_silent (by exact hsilent), ← hset]
    rfl

end

/-! ### The step -/

section
variable {s t : State} {m : MappingConfig}

theorem step_curves (hq : s.hostQ = []) (hb : s.phase.busy = true) (hseq : s.seq = .curves) : step s = floorCurves s := by
  rw [step_busy hq hb, fetchCore, hseq]

theorem floorCurves_of_inl (hm : s.frameMapping = some m) (h : floorVectors (List.range s.cfg.channels) s = .inl t) :
    floorCurves s = .next { t with
      noResidue := propagate m.steps t.noResidue, seq := m.residueSeq t.cfg.channels 0 } := by
  rw [floorCurves, hm]
  dsimp only
  rw [h]

theorem floorCurves_of_inr {o : Host.Outcome State Fault Refusal} (hm : s.frameMapping = some m)
    (h : floorVectors (List.range s.cfg.channels) s = .inr o) : floorCurves s = o := by
  rw [floorCurves, hm]
  dsimp only
  rw [h]

end

/-- Settles O38: the silent frame, the vector of a channel and when there is none, the loop over the channels. -/
theorem floorCurves_spec : Obligations.FloorCurves := by
  unfold Obligations.FloorCurves
  refine ⟨fun s m hq hb hseq hm hlen hu hr hsteps => ?silent, fun p h f y finalY used curve vec hv => ?vector,
    fun p h f y finalY used hs => ⟨fun hok htable => ?some, fun ⟨a, ha, hout⟩ => ?none⟩,
    fun s m hq hb hseq hm hrows => ⟨fun ready => ?stored, fun ch f finalY used curve hch ready hu hf hv => ?raised⟩⟩
  case silent =>
    rw [step_curves hq hb hseq, floorCurves_of_inl hm (floorVectors_silent hlen hu _ le_rfl)]
    dsimp only
    rw [hr, propagate_silent hsteps, ← hr, ← hlen, List.drop_length, List.append_nil]
  case vector =>
    obtain ⟨hs, rfl, hok, hmap⟩ := floorVector_ok hv
    obtain ⟨hlen, hget⟩ := invDbMap_getElem? _ hmap
    have hcurve : (f.curveOf h finalY used).length = h := floorCurve_length _ _ _
    refine ⟨hs, rfl, hcurve, hlen.trans hcurve, fun x hx => ?_⟩
    have hx' := List.getElem?_eq_getElem (hcurve.symm ▸ hx : x < (f.curveOf h finalY used).length)
    obtain ⟨h0, h255⟩ := (amplitudesOk_iff _).1 hok _ (List.getElem_mem (hcurve.symm ▸ hx))
    obtain ⟨hvec, hlt⟩ := hget x _ hx'
    exact ⟨_, hx'.trans (congrArg some (Int.toNat_of_nonneg h0).symm), by omega, hvec, hlt⟩
  case some =>
    obtain ⟨vec, hvec⟩ := invDbMap_isSome (table := p.invDb) (f.curveOf h finalY used) fun a ha => by
      have := hok a ha
      omega
    have hok' : amplitudesOk (f.curveOf h finalY used) = true := (amplitudesOk_iff _).2 hok
    refine ⟨vec, ?_⟩
    rw [floorVector_of_step2 hs, if_pos hok', hvec]
    rfl
  case none =>
    rw [floorVector_of_step2 hs, if_neg]
    · rfl
    · intro hok
      have := (amplitudesOk_iff _).1 hok a ha
      omega
  case stored =>
    obtain ⟨t, ht, hc⟩ := floorVectors_range hrows s.cfg.channels le_rfl ready
    refine ⟨_, (step_curves hq hb hseq).trans (floorCurves_of_inl hm ht), ?_, hc.stored, hc.kept⟩
    rw [hc.frame]
    rfl
  case raised =>
    obtain ⟨u, hu', hc⟩ := floorVectors_range hrows ch hch.le ready
    have hrow := (storeCurve_row ((hc.kept ch le_rfl).rows hrows hch) finalY used curve).2.2
    refine ⟨_, (step_curves hq hb hseq).trans (floorCurves_of_inr hm (floorVectors_of_inr hch hu' (hc.amplitude hu hf hv))),
      ⟨rfl, ?_, rfl⟩, ?_, ?_, fun k hk => (hc.stored k hk).trans (storeCurve_floorKept hk.ne' _ _ _),
      fun k hk => (hc.kept k hk.le).trans (storeCurve_floorKept hk.ne _ _ _)⟩
    · rw [hc.frame]
      rfl
    · rw [hc.frame]
      rfl
    · rw [hc.floorUsed] at hrow
      exact hrow

end Sys2Proof.Machine
end

section
/-! The decoder and the bit reader on the same bits, and discarded fields as one cursor move (20_memory.md R64, 42_headers.md
R175). -/

namespace Sys2Proof

/-- Bit `i` of a number stands at place `i` of its field (20_memory.md R64). -/
theorem bitsOf_getElem? (n : Nat) : ∀ v i : Nat, i < n → (bitsOf n v)[i]? = some (v.testBit i) := by
  induction n with
  | zero => exact fun _ i h => absurd h (Nat.not_lt_zero i)
  | succ n ih =>
    intro v i h
    cases i with
    | zero =>
      rw [Nat.testBit_zero]
      rfl
    | succ i =>
      rw [Nat.testBit_add_one]
      exact ih (v / 2) i (Nat.lt_of_succ_lt_succ h)

/-- A field takes the next bit, and a 0 where none is left (41_bitreader.md R154). -/
theorem takeNat_succ (n : Nat) (bs : List Bool) :
    takeNat (n + 1) bs = ((bs.head?.getD false).toNat + 2 * (takeNat n bs.tail).1, (takeNat n bs.tail).2) := by
  cases bs with
  | nil => cases n <;> rfl
  | cons b bs => rfl

end Sys2Proof

namespace Sys2Proof.Machine

open Sys2Proof

/-! ### The bits of a packet -/

theorem packetBit_cons_of_lt {p : Nat} (b : Byte) (bytes : List Byte) (h : p < 8) :
    packetBit (b :: bytes) p = b.toNat.testBit p := by
  rw [packetBit, Nat.div_eq_of_lt h, Nat.mod_eq_of_lt h]
  rfl

theorem packetBit_cons_add (b : Byte) (bytes : List Byte) (p : Nat) :
    packetBit (b :: bytes) (p + 8) = packetBit bytes p := by
  rw [packetBit, Nat.add_div_right p (by decide), Nat.add_mod_right]
  rfl

/-- The bit string of a packet holds the packet's bits, and zeros follow it (20_memory.md R64, 41_bitreader.md R154). -/
theorem bitsOfBytes_getD (bytes : List Byte) : ∀ p : Nat, (bitsOfBytes bytes)[p]?.getD false = packetBit bytes p := by
  induction bytes with
  | nil => exact fun p => by simp [packetBit]
  | cons b bytes ih =>
    intro p
    rcases Nat.lt_or_ge p 8 with h | h
    · rw [bitsOfBytes_cons, List.getElem?_append_left (by rwa [bitsOf_length]), bitsOf_getElem? 8 _ p h,
        packetBit_cons_of_lt b bytes h]
      rfl
    · obtain ⟨q, rfl⟩ := Nat.exists_eq_add_of_le' h
      rw [bitsOfBytes_cons, List.getElem?_append_right (by rwa [bitsOf_length]), bitsOf_length, Nat.add_sub_cancel,
        packetBit_cons_add, ih]

/-- A field taken from the bit string at place `p` is the packet's field there (20_memory.md R64). -/
theorem takeNat_drop (bytes : List Byte) (n : Nat) : ∀ p : Nat,
    takeNat n ((bitsOfBytes bytes).drop p) = (packetField bytes n p, (bitsOfBytes bytes).drop (p + n)) := by
  induction n with
  | zero => exact fun _ => rfl
  | succ n ih =>
    intro p
    rw [takeNat_succ, List.head?_drop, bitsOfBytes_getD, List.tail_drop, ih, packetField, Nat.add_assoc, Nat.add_comm 1 n]

/-- A cursor that stops at the packet's end leaves as much as one that moves past it. -/
theorem Reader.skip_rest {n : Nat} (hn : n ≤ 32) (r : Reader) : (r.skip n).rest = (bitsOfBytes r.bytes).drop (r.pos + n) := by
  rw [Reader.rest, Reader.skip_bytes, Reader.skip_pos, Nat.min_eq_left hn]
  rcases Nat.le_total n r.avail with h | h
  · rw [Nat.min_eq_left h]
  · rw [Reader.avail] at h ⊢
    rw [List.drop_eq_nil_of_le (by rw [bitsOfBytes_length]; omega), List.drop_eq_nil_of_le (by rw [bitsOfBytes_length]; omega)]

/-! ### Fields of one width -/

theorem total_replicate (k w : Nat) : total (List.replicate k w) = w * k := by
  induction k with
  | zero => rfl
  | succ k ih => rw [List.replicate_succ, total, ih, Nat.mul_succ, Nat.add_comm]

/-- Of equal fields as many are short as the bits left do not hold in full. -/
theorem shortReads_replicate {w : Nat} (hw : 1 ≤ w) (k : Nat) :
    ∀ left : Nat, shortReads left (List.replicate k w) = k - left / w := by
  induction k with
  | zero => exact fun _ => (Nat.zero_sub _).symm
  | succ k ih =>
    intro left
    rw [List.replicate_succ, shortReads, ih]
    rcases Nat.lt_or_ge left w with h | h
    · rw [if_pos h, Nat.sub_eq_zero_of_le h.le, Nat.zero_div, Nat.div_eq_of_lt h]
      omega
    · rw [if_neg (Nat.not_lt.2 h), Nat.div_eq_sub_div hw h]
      omega

/-- The one cursor move of a discarded run is the reads of its fields (42_headers.md R175). -/
theorem Reader.discard_eq_after {w : Nat} (hw : 1 ≤ w) (k : Nat) {r : Reader} (h : r.pos ≤ 8 * r.bytes.length) :
    r.discard w k = r.after (List.replicate k w) := by
  have hpos := (Reader.reads_discard (k := k) hw h).pos
  rw [Reader.after, total_replicate, shortReads_replicate hw, ← hpos]
  unfold Reader.discard Reader.avail
  dsimp only
  split
  · rw [Nat.sub_eq_zero_of_le ‹_›]
    rfl
  · rfl

/-- Settles O8: both read the packet's field at the cursor, and a discarded run is so many fields of its width. -/
theorem readsAgree : Obligations.ReadsAgree := by
  unfold Obligations.ReadsAgree
  refine ⟨fun n r hn _ => ?_, fun w k r hw hw32 h => ?_⟩
  · rw [Reader.skip_rest hn, Reader.readBits_fst, Nat.min_eq_left hn]
    exact takeNat_drop r.bytes n r.pos
  · rw [Reader.discard_eq_after hw k h, Reader.skipEach_eq_after hw32 k h]

end Sys2Proof.Machine
end

section
/-! The two checks after the head of a lookup (43_codebook.md R215, 20_memory.md R70). -/

namespace Sys2Proof.Machine

open Sys2Proof

section
variable {s : State} {books : List Codebook} {b : Codebook}

/-- An abort with fields read and the codebook under decode written: nothing else has changed (60_exceptions.md R351). -/
theorem abort_skips_modifyBook (h : s.codebooks = books ++ [b]) {ws : List Nat} (hw : ∀ w ∈ ws, w ≤ 32)
    (g : Codebook → Codebook) (c : ErrCode) (i : Nat) :
    ∃ t, abort ((s.skips ws).modifyBook g) c i = .next t ∧ AbortedAs s t c i
      ∧ t = { s with
          pktBitpos := t.pktBitpos, warn := t.warn, phase := t.phase, err := t.err, view := t.view
          codebooks := books ++ [g b] }
      ∧ (s.Inv → ReadBy s t ws) := by
  rw [modifyBook_last (s := s.skips ws) h]
  exact ⟨_, rfl, ⟨rfl, rfl, rfl⟩, rfl, fun hi => readBy_skips hi hw rfl rfl⟩

/-- A lookup that aborts after its head leaves the head written and the head's five fields read (43_codebook.md R215). -/
theorem lookupVq_aborts (h : s.codebooks = books ++ [b]) {ty : Nat} {f : VqFields} {c : ErrCode} {i : Nat}
    (ha : lookupVq ty f s = abort ((s.skips [4, 32, 32, 4, 1]).modifyBook (vqHead ty f)) c i) :
    ∃ t, lookupVq ty f s = .next t ∧ AbortedAs s t c i
      ∧ t = { s with
          pktBitpos := t.pktBitpos, warn := t.warn, phase := t.phase, err := t.err, view := t.view
          codebooks := books ++ [vqHead ty f b] }
      ∧ (s.Inv → ReadBy s t [4, 32, 32, 4, 1]) := by
  rw [ha]
  exact abort_skips_modifyBook h (by decide) (vqHead ty f) c i

theorem lookupVq_dim0 (h : s.codebooks = books ++ [b]) (f : VqFields) (hd : b.dims = 0) :
    lookupVq 1 f s = abort ((s.skips [4, 32, 32, 4, 1]).modifyBook (vqHead 1 f)) .cbLookup1Dim0 books.length := by
  obtain ⟨hbook, hidx⟩ := book_last h
  rw [lookupVq, hbook, hidx]
  exact if_pos ⟨rfl, hd⟩

theorem lookupVq_full (h : s.codebooks = books ++ [b]) {ty : Nat} (f : VqFields) (hd : ¬ (ty = 1 ∧ b.dims = 0))
    (hfull : s.params.maxMultiplicands < s.multStored + lookupValueCount ty b.entries b.dims) :
    lookupVq ty f s = abort ((s.skips [4, 32, 32, 4, 1]).modifyBook (vqHead ty f)) .capacity 3 := by
  rw [lookupVq, (book_last h).1]
  exact (if_neg hd).trans (if_pos hfull)

end

/-- Settles O23: each check aborts after the head, type 1 with dimension 0 before the store. -/
theorem lookupErrors : Obligations.LookupErrors := by
  unfold Obligations.LookupErrors
  intro s books b f h
  refine ⟨fun hd => ?dim0, fun hd hfull => ?full1, fun hfull => ?full2⟩
  case dim0 => exact lookupVq_aborts h (lookupVq_dim0 h f hd)
  case full1 => exact lookupVq_aborts h (lookupVq_full (ty := 1) h f (by omega) hfull)
  case full2 => exact lookupVq_aborts h (lookupVq_full (ty := 2) h f (by omega) hfull)

end Sys2Proof.Machine
end

section
/-! The step that builds a book's tree (43_codebook.md R222, R224). -/

namespace Sys2Proof.Machine

open Sys2Proof

section
variable {s : State} {books : List Codebook} {b : Codebook}

theorem step_huffBuild (hq : s.hostQ = []) (hb : s.phase.busy = true) (hseq : s.seq = .huffBuild) : step s = huffBuild s := by
  rw [step_busy hq hb, fetchCore, hseq]

/-- The nodes of a table are those of its books (43_codebook.md R224). -/
theorem huffNodes_concat (books : List Codebook) (b : Codebook) :
    huffNodes (books ++ [b]) = huffNodes books + b.tree.nodeCount := by
  rw [huffNodes, List.map_append, total_append]
  rfl

/-- The build on the last book of the table: an entry without a place, too many nodes, or the tree stored
(43_codebook.md R222, R224). -/
theorem huffBuild_last (h : s.codebooks = books ++ [b]) :
    huffBuild s =
      let p := placeCodes 0 HuffTree.root b.len
      let coded := { s with codebooks := books ++ [{ b with code := p.code }] }
      if p.complete = false then abort coded .cbOverspec books.length
      else if s.params.maxHuffNodes < huffNodes books + p.tree.nodeCount then abort coded .capacity 2
      else .next { s with
        codebooks := books ++ [{ b with code := p.code, tree := p.tree }]
        seq := if books.length + 1 < s.nCodebooks then .codebook else .count .time } := by
  obtain ⟨hbook, hidx⟩ := book_last h
  have hafter : s.afterBook = if books.length + 1 < s.nCodebooks then .codebook else .count .time := by
    rw [State.afterBook, h, List.length_append, List.length_singleton]
  rw [huffBuild, hbook, hidx, hafter]
  simp only [modifyBook_last h, huffNodes_concat]

end

/-- Settles O28, by the three outcomes of the build on the last book. -/
theorem huffmanBuild : Obligations.HuffmanBuild := by
  unfold Obligations.HuffmanBuild
  intro s books b hq hb hseq h
  rw [step_huffBuild hq hb hseq, huffBuild_last h]
  refine ⟨fun hc hfit => ?stored, fun hc hfull => ?capacity, fun hc => ?overspec⟩
  case stored => exact (if_neg (by rw [hc]; decide)).trans (if_neg (Nat.not_lt.2 hfit))
  case capacity => exact ⟨_, (if_neg (by rw [hc]; decide)).trans (if_pos hfull), ⟨rfl, rfl, rfl⟩, rfl⟩
  case overspec => exact ⟨_, if_pos hc, ⟨rfl, rfl, rfl⟩, rfl⟩

end Sys2Proof.Machine
end

section
/-! Well-formedness by cases, and decoding what was encoded, unit by unit (30_encoding.md R80 to R95). -/

namespace Sys2Proof

/-! ### Well-formedness by cases -/

/-- The well-formed instructions of each context, one constructor for each (30_encoding.md R80 to R95). -/
inductive Instr.WellFormed : Ctx → Instr → Prop
  | oggPage (p : Page) (h : p.wf = true) : WellFormed .page (.oggPage p)
  | idHdr (f : IdFields) : WellFormed .idHdr (.idHdr f)
  | commentHdr (f : CommentFields) (h : f.wf = true) : WellFormed .commentHdr (.commentHdr f)
  | setupHdr (n : BitVec 8) : WellFormed .setupHdr (.setupHdr n)
  | codebook (b : Nat) (dims : BitVec 16) (entries : BitVec 24) : WellFormed (.codebook b) (.codebook dims entries)
  | cbLenDense (lens : List (BitVec 5)) : WellFormed (.lengths lens.length) (.cbLenDense lens)
  | cbLenSparse (lens : List (Option (BitVec 5))) : WellFormed (.lengths lens.length) (.cbLenSparse lens)
  | cbLenOrdered (entries : Nat) (initM1 : BitVec 5) (counts : List Nat)
      (h : orderedWf entries (32 - initM1.toNat) 0 counts = true) : WellFormed (.lengths entries) (.cbLenOrdered initM1 counts)
  | cbLookup0 (b entries dims room : Nat) : WellFormed (.lookup b entries dims room) .cbLookup0
  | cbLookup1 (b entries dims room : Nat) (f : VqFields) (h : f.wf 1 entries dims room = true) :
      WellFormed (.lookup b entries dims room) (.cbLookup1 f)
  | cbLookup2 (b entries dims room : Nat) (f : VqFields) (h : f.wf 2 entries dims room = true) :
      WellFormed (.lookup b entries dims room) (.cbLookup2 f)
  | timeEntry (t : Nat) : WellFormed (.time t) .timeEntry
  | floor1 (k : Nat) (f : FloorFields) (h : f.wf = true) : WellFormed (.floor k) (.floor1 f)
  | res0 (k : Nat) (f : ResidueFields) (h : f.wf = true) : WellFormed (.residue k) (.res0 f)
  | res1 (k : Nat) (f : ResidueFields) (h : f.wf = true) : WellFormed (.residue k) (.res1 f)
  | res2 (k : Nat) (f : ResidueFields) (h : f.wf = true) : WellFormed (.residue k) (.res2 f)
  | map0 (k channels : Nat) (f : MapFields) (h : f.wf channels = true) : WellFormed (.mapping k channels) (.map0 f)
  | mode (k : Nat) (blockflag : Bool) (mapping : BitVec 8) : WellFormed (.mode k) (.mode blockflag mapping)
  | audioPacket (modes mode : Nat) (h : mode < 2 ^ modeWidth modes) : WellFormed (.audio modes) (.audioPacket mode)
  | windowFlags (prev next : Bool) : WellFormed .window (.windowFlags prev next)
  | floor1PayloadUnused (range : Nat) : WellFormed (.floorPayload range) .floor1PayloadUnused
  | floor1PayloadPresent (range y0 y1 : Nat) (h0 : y0 < 2 ^ floorYWidth range) (h1 : y1 < 2 ^ floorYWidth range) :
      WellFormed (.floorPayload range) (.floor1PayloadPresent y0 y1)
  | res0Payload : WellFormed (.residuePayload .t0) .res0Payload
  | res1Payload : WellFormed (.residuePayload .t1) .res1Payload
  | res2Payload : WellFormed (.residuePayload .t2) .res2Payload

theorem Instr.WellFormed.of_wf {c : Ctx} {i : Instr} (h : i.wf c = true) : i.WellFormed c := by
  unfold Instr.wf at h
  split at h
  case h_26 => cases h
  -- a dense and a sparse length list
  case h_6 | h_7 =>
    obtain rfl := of_decide_eq_true h
    constructor
  -- an audio packet
  case h_19 => exact .audioPacket _ _ (of_decide_eq_true h)
  -- the baseline values of a floor payload
  case h_22 => exact .floor1PayloadPresent _ _ _ (of_decide_eq_true h).1 (of_decide_eq_true h).2
  all_goals constructor <;> assumption

theorem Instr.WellFormed.wf {c : Ctx} {i : Instr} (h : i.WellFormed c) : i.wf c = true := by
  cases h with
  | cbLenDense | cbLenSparse => exact decide_eq_true rfl
  | audioPacket _ _ h => exact decide_eq_true h
  | floor1PayloadPresent _ _ _ h0 h1 => exact decide_eq_true ⟨h0, h1⟩
  | oggPage _ h | commentHdr _ h | cbLenOrdered _ _ _ h | cbLookup1 _ _ _ _ _ h | cbLookup2 _ _ _ _ _ h | floor1 _ _ h
  | res0 _ _ h | res1 _ _ h | res2 _ _ h | map0 _ _ _ h => exact h
  | _ => rfl

theorem Instr.wf_iff {c : Ctx} {i : Instr} : i.wf c = true ↔ i.WellFormed c := ⟨.of_wf, fun h => h.wf⟩

/-! ### The checks of each body -/

theorem Page.wf_iff {p : Page} :
    p.wf = true ↔ p.segs.length < 256 ∧ p.payload.length = total (p.segs.map BitVec.toNat) := by
  simp only [Page.wf, Bool.and_eq_true, decide_eq_true_eq]

theorem CommentFields.wf_iff {f : CommentFields} :
    f.wf = true ↔ f.vendor.length = f.vendorLen.toNat ∧ f.comments.length = f.count.toNat
      ∧ ∀ c ∈ f.comments, c.bytes.length = c.len.toNat := by
  simp only [CommentFields.wf, Bool.and_eq_true, decide_eq_true_eq, List.all_eq_true, and_assoc]

theorem orderedWf_cons {entries fuel cur c : Nat} {cs : List Nat} :
    orderedWf entries (fuel + 1) cur (c :: cs) = true ↔ cur < entries ∧ c < 2 ^ countWidth entries cur
      ∧ (if entries < cur + c then cs = [] else orderedWf entries fuel (cur + c) cs = true) := by
  simp only [orderedWf, Bool.and_eq_true, decide_eq_true_eq, and_assoc]
  split <;> simp only [List.isEmpty_iff]

theorem VqFields.wf_iff {f : VqFields} {t entries dims room : Nat} :
    f.wf t entries dims room = true ↔
      f.mult.length = multCount t entries dims room ∧ ∀ m ∈ f.mult, m < 2 ^ plusOne f.valueBitsM1 := by
  simp only [VqFields.wf, Bool.and_eq_true, decide_eq_true_eq, List.all_eq_true]

theorem ClassFields.wf_iff {c : ClassFields} :
    c.wf = true ↔ c.master.isSome = (c.sub != 0) ∧ c.books.length = subBookCount c.sub := by
  simp only [ClassFields.wf, Bool.and_eq_true, beq_iff_eq, decide_eq_true_eq]

theorem FloorFields.wf_iff {f : FloorFields} :
    f.wf = true ↔ f.partClass.length < 32 ∧ f.classes.length = classCount f.partClass ∧ (∀ c ∈ f.classes, c.wf = true)
      ∧ f.xs.length = xCount f.partClass (f.classes.map (fun c => plusOne c.dimM1))
      ∧ ∀ x ∈ f.xs, x < 2 ^ f.rangebits.toNat := by
  simp only [FloorFields.wf, Bool.and_eq_true, decide_eq_true_eq, List.all_eq_true, and_assoc]

theorem ResidueFields.wf_iff {f : ResidueFields} :
    f.wf = true ↔ f.cascade.length = plusOne f.classificationsM1
      ∧ f.books.map List.length = f.cascade.map (fun c => passCount (cascadeValue c)) := by
  simp only [ResidueFields.wf, Bool.and_eq_true, decide_eq_true_eq]

theorem MapFields.wf_iff {f : MapFields} {channels : Nat} :
    f.wf channels = true ↔
      (∀ steps, f.coupling = some steps → (0 < steps.length ∧ steps.length ≤ 256)
        ∧ ∀ p ∈ steps, p.1 < 2 ^ couplingWidth channels ∧ p.2 < 2 ^ couplingWidth channels)
      ∧ f.mux.length = (if 1 < submapCount f.submapsM1 then channels else 0)
      ∧ f.subs.length = submapCount f.submapsM1 := by
  simp only [MapFields.wf, Bool.and_eq_true, decide_eq_true_eq, and_assoc]
  cases f.coupling <;> simp [and_assoc]

end Sys2Proof
end

section
/-! Decoding what was encoded, unit by unit (30_encoding.md R80 to R95). -/

namespace Sys2Proof

variable (rest : List Bool)

/-- As many fields as the list is long are read back. -/
theorem takeBvs_of_length {n k : Nat} {l : List (BitVec n)} (h : l.length = k) :
    takeBvs n k (l.flatMap encBv ++ rest) = (l, rest) := h ▸ takeBvs_flatMap l rest

/-! ### Header packets -/

theorem checkMagic_flatMap (ms : List Nat) (h : ∀ m ∈ ms, m < 2 ^ 8) :
    ∀ k, checkMagic ms k (ms.flatMap (bitsOf 8) ++ rest) = .inr rest := by
  induction ms with
  | nil => exact fun _ => rfl
  | cons m ms ih =>
    intro k
    obtain ⟨hm, hms⟩ := List.forall_mem_cons.1 h
    rw [List.flatMap_cons, List.append_assoc, checkMagic, takeNat_of_lt hm]
    exact (if_pos rfl).trans (ih hms (k + 1))

/-- The type and the magic of a header packet are read, and its body follows (42_headers.md R171). -/
theorem decodePrefixed_encPrefix {t : Nat} (ht : t < 2 ^ 8) (bits : List Bool) (body : List Bool → Decoded) :
    decodePrefixed t (encPrefix t ++ bits) body = body bits := by
  rw [encPrefix, List.append_assoc, decodePrefixed, takeNat_of_lt ht]
  dsimp only
  rw [if_neg (not_not.2 rfl), checkMagic_flatMap bits magicBytes (by decide)]

theorem decodeIdFields_enc (f : IdFields) : decodeIdFields (encIdFields f ++ rest) = (f, rest) := by
  simp [decodeIdFields, encIdFields]

/-- With bits left, a comment is read (30_encoding.md R84). -/
theorem decodeComments_succ (k : Nat) {bs : List Bool} (h : bs ≠ []) :
    decodeComments (k + 1) bs =
      let len := takeBv 32 bs
      let bytes := takeBytes (min len.1.toNat bs.length) len.2
      let more := decodeComments k bytes.2
      ({ len := len.1, bytes := bytes.1 } :: more.1, more.2) := by
  cases bs with
  | nil => exact absurd rfl h
  | cons b bs => rfl

/-- A byte string whose length is the one that is read is read in full, however many bits follow. -/
theorem takeBytes_min {n m : Nat} {bytes : List Byte} (hn : bytes.length = n) (hm : n ≤ m) :
    takeBytes (min n m) (bitsOfBytes bytes ++ rest) = (bytes, rest) := by
  rw [Nat.min_eq_left hm, ← hn, takeBytes_bitsOfBytes]

theorem decodeComments_flatMap (l : List Comment) (h : ∀ c ∈ l, c.bytes.length = c.len.toNat) :
    decodeComments l.length (l.flatMap (fun c => encBv c.len ++ bitsOfBytes c.bytes) ++ rest) = (l, rest) := by
  induction l with
  | nil => rfl
  | cons c l ih =>
    obtain ⟨hc, hl⟩ := List.forall_mem_cons.1 h
    rw [List.flatMap_cons, List.append_assoc, List.append_assoc, List.length_cons, decodeComments_succ]
    · simp only [takeBv_encBv]
      rw [takeBytes_min _ hc (by simp; omega), ih hl]
    · exact List.ne_nil_of_length_pos (by simp)

/-- A comment takes at least one bit. -/
theorem length_le_length_comments (l : List Comment) :
    l.length ≤ (l.flatMap fun c => encBv c.len ++ bitsOfBytes c.bytes).length := by
  have h := List.length_le_sum_of_one_le (l.map fun c => (encBv c.len ++ bitsOfBytes c.bytes).length) (by simp; omega)
  rwa [List.length_map, ← List.length_flatMap] at h

theorem decodeCommentFields_enc (f : CommentFields) (h : f.wf = true) :
    decodeCommentFields (encCommentFields f ++ rest) = (f, rest) := by
  obtain ⟨hv, hn, hc⟩ := CommentFields.wf_iff.1 h
  have hlen := length_le_length_comments f.comments
  rw [hn] at hlen
  simp only [decodeCommentFields, encCommentFields, List.append_assoc, takeBv_encBv]
  rw [takeBytes_min _ hv (by simp; omega), takeBv_encBv]
  rw [Nat.min_eq_left (by simp at hlen ⊢; omega), ← hn, decodeComments_flatMap _ _ hc]
  rfl

/-! ### Codebooks -/

theorem decodeCounts_enc (entries : Nat) (counts : List Nat) : ∀ fuel cur : Nat, orderedWf entries fuel cur counts = true →
    decodeCounts entries fuel cur (encCounts entries cur counts ++ rest) = (counts, rest) := by
  induction counts with
  | nil =>
    intro fuel cur h
    cases fuel with
    | zero => rfl
    | succ fuel =>
      simp only [orderedWf, Nat.add_one_ne_zero, false_or, decide_eq_true_eq] at h
      exact if_pos h
  | cons c cs ih =>
    intro fuel cur h
    cases fuel with
    | zero => cases h
    | succ fuel =>
      obtain ⟨hcur, hc, hcs⟩ := orderedWf_cons.1 h
      rw [encCounts, List.append_assoc, decodeCounts, if_neg (Nat.not_le.2 hcur), takeNat_of_lt hc]
      by_cases hrun : entries < cur + c
      · rw [if_pos hrun] at hcs
        subst hcs
        exact if_pos hrun
      · rw [if_neg hrun] at hcs
        dsimp only
        rw [if_neg hrun, ih fuel _ hcs]

theorem decodeVqFields_enc {t entries dims room : Nat} (f : VqFields) (h : f.wf t entries dims room = true) :
    decodeVqFields t entries dims room (encVqFields f ++ rest) = (f, rest) := by
  obtain ⟨hlen, hm⟩ := VqFields.wf_iff.1 h
  simp [decodeVqFields, encVqFields, ← hlen, takeNats_flatMap f.mult hm]

/-! ### Floors -/

theorem decodeClass_enc (c : ClassFields) (h : c.wf = true) : decodeClass (encClass c ++ rest) = (c, rest) := by
  obtain ⟨hm, hb⟩ := ClassFields.wf_iff.1 h
  obtain ⟨dimM1, sub, master, books⟩ := c
  cases master with
  | none =>
    have h0 : sub = 0 := by simpa using hm.symm
    simp only [decodeClass, encClass, List.append_assoc, takeBv_encBv, if_pos h0, List.nil_append, takeBvs_of_length _ hb]
  | some m =>
    have h0 : sub ≠ 0 := by simpa using hm.symm
    simp only [decodeClass, encClass, List.append_assoc, takeBv_encBv, if_neg h0, takeBvs_of_length _ hb]

theorem decodeClasses_flatMap (l : List ClassFields) (h : ∀ c ∈ l, c.wf = true) :
    decodeClasses l.length (l.flatMap encClass ++ rest) = (l, rest) := by
  induction l with
  | nil => rfl
  | cons c l ih =>
    obtain ⟨hc, hl⟩ := List.forall_mem_cons.1 h
    rw [List.flatMap_cons, List.append_assoc, List.length_cons, decodeClasses, decodeClass_enc _ c hc]
    dsimp only
    rw [ih hl]

theorem decodeFloorFields_enc (f : FloorFields) (h : f.wf = true) :
    decodeFloorFields (encFloorFields f ++ rest) = (f, rest) := by
  obtain ⟨hp, hlen, hc, hx, hxs⟩ := FloorFields.wf_iff.1 h
  simp only [decodeFloorFields, encFloorFields, List.append_assoc, takeNat_of_lt (n := 5) hp, takeBvs_flatMap, ← hlen,
    decodeClasses_flatMap _ f.classes hc, takeBv_encBv, ← hx, takeNats_flatMap f.xs hxs]

/-! ### Residues -/

theorem decodeCascades_flatMap (l : List CascadeFields) :
    decodeCascades l.length (l.flatMap (fun c => encBv c.low ++ encOption 5 c.high) ++ rest) = (l, rest) := by
  induction l with
  | nil => rfl
  | cons c l ih => simp [decodeCascades, ih]

theorem decodePassBooks_flatMap (cs : List CascadeFields) : ∀ books : List (List (BitVec 8)),
    books.map List.length = cs.map (fun c => passCount (cascadeValue c)) →
    decodePassBooks cs (books.flatMap (fun bs => bs.flatMap encBv) ++ rest) = (books, rest) := by
  induction cs with
  | nil =>
    intro books h
    obtain rfl := List.map_eq_nil_iff.1 h
    rfl
  | cons c cs ih =>
    intro books h
    cases books with
    | nil => cases h
    | cons row books =>
      obtain ⟨hrow, hbooks⟩ := List.cons.inj h
      rw [List.flatMap_cons, List.append_assoc, decodePassBooks, takeBvs_of_length _ hrow]
      dsimp only
      rw [ih books hbooks]

theorem decodeResidueFields_enc (f : ResidueFields) (h : f.wf = true) :
    decodeResidueFields (encResidueFields f ++ rest) = (f, rest) := by
  obtain ⟨hc, hb⟩ := ResidueFields.wf_iff.1 h
  simp only [decodeResidueFields, encResidueFields, List.append_assoc, takeBv_encBv, ← hc, decodeCascades_flatMap,
    decodePassBooks_flatMap _ _ f.books hb]

/-! ### Mappings -/

theorem decodeSteps_flatMap {w : Nat} (l : List (Nat × Nat)) (h : ∀ p ∈ l, p.1 < 2 ^ w ∧ p.2 < 2 ^ w) :
    decodeSteps w l.length (l.flatMap (fun p => bitsOf w p.1 ++ bitsOf w p.2) ++ rest) = (l, rest) := by
  induction l with
  | nil => rfl
  | cons p l ih =>
    obtain ⟨⟨hm, ha⟩, hl⟩ := List.forall_mem_cons.1 h
    simp only [List.flatMap_cons, List.append_assoc, List.length_cons, decodeSteps, takeNat_of_lt hm, takeNat_of_lt ha, ih hl]

theorem decodeSubmaps_flatMap (l : List SubmapFields) :
    decodeSubmaps l.length (l.flatMap (fun s => encBv s.placeholder ++ (encBv s.floor ++ encBv s.residue)) ++ rest)
      = (l, rest) := by
  induction l with
  | nil => rfl
  | cons s l ih => simp [decodeSubmaps, ih]

theorem decodeMapFields_enc {channels : Nat} (f : MapFields) (h : f.wf channels = true) :
    decodeMapFields channels (encMapFields channels f ++ rest) = (f, rest) := by
  obtain ⟨hc, hmux, hsubs⟩ := MapFields.wf_iff.1 h
  obtain ⟨submapsM1, coupling, reserved, mux, subs⟩ := f
  have hmux' (bits : List Bool) := takeBvs_of_length bits hmux
  have hsubs' := hsubs ▸ decodeSubmaps_flatMap rest subs
  cases coupling with
  | none =>
    have hflag (bits : List Bool) : takeOption 8 (false :: bits) = (none, bits) := rfl
    simp only [decodeMapFields, encMapFields, encCoupling, List.append_assoc, List.cons_append, List.nil_append,
      takeOption_encOption, hflag, takeBv_encBv, hmux', hsubs']
  | some steps =>
    obtain ⟨⟨hpos, hle⟩, hsteps⟩ := hc steps rfl
    have hcount : (BitVec.ofNat 8 (steps.length - 1)).toNat = steps.length - 1 := by
      rw [BitVec.toNat_ofNat]
      omega
    have hplus : plusOne (BitVec.ofNat 8 (steps.length - 1)) = steps.length := by
      rw [plusOne, hcount]
      omega
    have hflag (bits : List Bool) : takeOption 8 (true :: (bitsOf 8 (steps.length - 1) ++ bits))
        = (some (BitVec.ofNat 8 (steps.length - 1)), bits) := by
      have := takeOption_encOption (some (BitVec.ofNat 8 (steps.length - 1))) bits
      rwa [encOption, hcount] at this
    simp only [decodeMapFields, encMapFields, encCoupling, List.append_assoc, List.cons_append, takeOption_encOption, hflag,
      hplus, decodeSteps_flatMap _ steps hsteps, takeBv_encBv, hmux', hsubs']

end Sys2Proof
end

section
/-! Pages (30_encoding.md R80), and the decoder on the encoding of a well-formed instruction. -/

namespace Sys2Proof

/-! ### Pages -/

theorem encodePage_length (p : Page) : (encodePage p).length = p.byteLength := by
  simp [encodePage, Page.byteLength, headerBytes]
  omega

/-- A little-endian word is read back (20_memory.md R61). -/
theorem ofNat_leNat_leBytes {n w : Nat} (hw : w = 8 * n) (v : BitVec w) : BitVec.ofNat w (leNat (leBytes n v.toNat)) = v := by
  subst hw
  rw [leNat_leBytes n _ (by rw [show 256 ^ n = 2 ^ (8 * n) from (pow_mul 2 8 n).symm]; exact v.isLt), BitVec.ofNat_toNat,
    BitVec.setWidth_eq]

/-- The 27 bytes of a page's header are followed by its table and its payload (30_encoding.md R80). -/
theorem drop_header_encodePage (p : Page) (more : List Byte) :
    (encodePage p ++ more).drop headerBytes = p.segs ++ (p.payload ++ more) := by
  rw [encodePage, List.append_assoc, List.append_assoc]
  rfl

section
variable {p : Page} (h : p.wf = true) (more : List Byte)
include h

theorem segCount_encodePage : ((encodePage p ++ more).getD 26 0).toNat = p.segs.length := by
  rw [show (encodePage p ++ more).getD 26 0 = BitVec.ofNat 8 p.segs.length from rfl, BitVec.toNat_ofNat]
  exact Nat.mod_eq_of_lt (Page.wf_iff.1 h).1

theorem segsOf_encodePage : segsOf (encodePage p ++ more) = p.segs := by
  rw [segsOf, segCount_encodePage h, drop_header_encodePage, List.take_left]

theorem payloadOf_encodePage : payloadOf (encodePage p ++ more) = p.payload := by
  rw [payloadOf, segCount_encodePage h, segsOf_encodePage h, ← List.drop_drop, drop_header_encodePage, List.drop_left]
  exact List.take_left' (Page.wf_iff.1 h).2

theorem pageOf_encodePage : pageOf (encodePage p ++ more) = p := by
  have htype : BitVec.ofNat 3 ((encodePage p ++ more).getD 5 0).toNat = p.htype := by
    rw [show (encodePage p ++ more).getD 5 0 = BitVec.ofNat 8 p.htype.toNat from rfl]
    bv_omega
  have hgranule := ofNat_leNat_leBytes (n := 8) rfl p.granule
  have hserial := ofNat_leNat_leBytes (n := 4) rfl p.serial
  have hsequence := ofNat_leNat_leBytes (n := 4) rfl p.sequence
  have hcrc := ofNat_leNat_leBytes (n := 4) rfl p.crc
  rw [pageOf, htype, segsOf_encodePage h, payloadOf_encodePage h]
  cases p
  exact Page.mk.injEq .. ▸ ⟨rfl, hgranule, hserial, hsequence, hcrc, rfl, rfl⟩

/-- A page's bytes are a page, whatever follows them (40_ogg_demuxer.md R120). -/
theorem decodePage_encodePage : decodePage (encodePage p ++ more) = .ok p := by
  have hlen : (encodePage p ++ more).length = headerBytes + p.segs.length + p.payload.length + more.length := by
    rw [List.length_append, encodePage_length, Page.byteLength]
  have hcheck : checkHeader (encodePage p ++ more) = none := by
    have hcapture : leNat ((encodePage p ++ more).take 4) = 0x5367674F := leNat_leBytes 4 _ (by decide)
    have hversion : (encodePage p ++ more).getD 4 0 = 0 := rfl
    have htype : ¬ 7 < ((encodePage p ++ more).getD 5 0).toNat := by
      rw [show (encodePage p ++ more).getD 5 0 = BitVec.ofNat 8 p.htype.toNat from rfl]
      bv_omega
    rw [checkHeader, if_neg (not_not.2 hcapture), if_neg (not_not.2 hversion), if_neg htype]
  rw [decodePage, hcheck, segCount_encodePage h, segsOf_encodePage h, ← (Page.wf_iff.1 h).2, hlen, if_neg (by omega)]
  dsimp only
  rw [if_neg (by omega), if_neg (by omega), pageOf_encodePage h]

end

/-- Whole bytes in front of any bits. -/
theorem bytesOfBits_append (bytes : List Byte) (k : Nat) (rest : List Bool) :
    bytesOfBits (bytes.length + k) (bitsOfBytes bytes ++ rest) = bytes ++ bytesOfBits k rest := by
  induction bytes with
  | nil => rw [List.length_nil, Nat.zero_add]; rfl
  | cons b bytes ih =>
    rw [List.length_cons, Nat.add_right_comm, bytesOfBits, bitsOfBytes_cons, List.append_assoc, takeBv_bitsOf, ih]
    rfl

theorem decode_page_encodePage {p : Page} (h : p.wf = true) (rest : List Bool) :
    decode .page (bitsOfBytes (encodePage p) ++ rest) = .ok (.oggPage p) rest := by
  have hlen : (bitsOfBytes (encodePage p)).length = 8 * p.byteLength := by rw [bitsOfBytes_length, encodePage_length]
  have hbytes : (bitsOfBytes (encodePage p) ++ rest).length / 8 = (encodePage p).length + rest.length / 8 := by
    rw [List.length_append, bitsOfBytes_length]
    omega
  rw [decode, hbytes, bytesOfBits_append, decodePage_encodePage h]
  dsimp only
  rw [← hlen, List.drop_left]

/-! ### The decoder -/

theorem decode_encode {c : Ctx} {i : Instr} (h : i.WellFormed c) (rest : List Bool) :
    decode c (encode c i ++ rest) = .ok i rest := by
  cases h with
  | oggPage p h => exact decode_page_encodePage h rest
  | idHdr f =>
    rw [encode, decode, List.append_assoc, decodePrefixed_encPrefix (by decide), decodeIdFields_enc]
  | commentHdr f h =>
    rw [encode, decode, List.append_assoc, decodePrefixed_encPrefix (by decide), decodeCommentFields_enc _ f h]
  | setupHdr n => rw [encode, decode, List.append_assoc, decodePrefixed_encPrefix (by decide), takeBv_encBv]
  | codebook b dims entries =>
    simp only [encode, decode, List.append_assoc, takeNat_of_lt (show 0x564342 < 2 ^ 24 by decide), takeBv_encBv, ne_eq,
      not_true, if_false]
  | cbLenDense lens =>
    exact congrArg (fun l => Decoded.ok (.cbLenDense l.1) l.2) (takeBvs_flatMap lens rest)
  | cbLenSparse lens =>
    exact congrArg (fun l => Decoded.ok (.cbLenSparse l.1) l.2) (takeOptions_flatMap lens rest)
  | cbLenOrdered entries initM1 counts h =>
    simp [encode, decode, decodeLengths, decodeCounts_enc _ _ _ _ _ h]
  | cbLookup0 b entries dims room => rfl
  | cbLookup1 b entries dims room f h =>
    simp only [encode, decode, decodeLookup, List.append_assoc, takeNat_of_lt (show 1 < 2 ^ 4 by decide),
      decodeVqFields_enc _ f h]
  | cbLookup2 b entries dims room f h =>
    simp only [encode, decode, decodeLookup, List.append_assoc, takeNat_of_lt (show 2 < 2 ^ 4 by decide),
      decodeVqFields_enc _ f h]
  | timeEntry t =>
    simp only [encode, decode, takeNat_of_lt (show 0 < 2 ^ 16 by decide), ne_eq, not_true, if_false]
  | floor1 k f h =>
    simp only [encode, decode, List.append_assoc, takeNat_of_lt (show 1 < 2 ^ 16 by decide), decodeFloorFields_enc _ f h,
      ne_eq, not_true, if_false]
  | res0 k f h =>
    simp only [encode, decode, List.append_assoc, takeNat_of_lt (show 0 < 2 ^ 16 by decide), decodeResidueFields_enc _ f h]
  | res1 k f h =>
    simp only [encode, decode, List.append_assoc, takeNat_of_lt (show 1 < 2 ^ 16 by decide), decodeResidueFields_enc _ f h]
  | res2 k f h =>
    simp only [encode, decode, List.append_assoc, takeNat_of_lt (show 2 < 2 ^ 16 by decide), decodeResidueFields_enc _ f h]
  | map0 k channels f h =>
    simp only [encode, decode, List.append_assoc, takeNat_of_lt (show 0 < 2 ^ 16 by decide), decodeMapFields_enc _ f h,
      ne_eq, not_true, if_false]
  | mode k blockflag mapping =>
    simp [encode, decode, decodeMode, takeNat_of_lt]
  | audioPacket modes mode h =>
    simp [encode, decode, takeNat_of_lt h]
  | windowFlags prev next => rfl
  | floor1PayloadUnused range => rfl
  | floor1PayloadPresent range y0 y1 h0 h1 =>
    simp [encode, decode, takeNat_of_lt h0, takeNat_of_lt h1]
  | res0Payload => rfl
  | res1Payload => rfl
  | res2Payload => rfl

/-- Settles O2, unit by unit. -/
theorem encodeThenDecode : Obligations.EncodeThenDecode := by
  unfold Obligations.EncodeThenDecode
  exact fun c i rest h => decode_encode (Instr.wf_iff.1 h) rest

end Sys2Proof
end

section
/-! What a field or a unit takes from the bits it was decoded from (30_encoding.md R80 to R95, 41_bitreader.md R154). -/

namespace Sys2Proof

/-! ### Bits taken -/

/-- What has the encoding `enc` was taken from `bs` and left `rest`: it stands there in full, or the bits ended inside it
and the missing ones were read as zeros (41_bitreader.md R154). -/
def Took (bs enc rest : List Bool) : Prop := bs = enc ++ rest ∨ rest = [] ∧ bs.length < enc.length

section
variable {bs enc enc' mid rest : List Bool}

theorem Took.nil (bs : List Bool) : Took bs [] bs := .inl rfl

theorem Took.cons (h : Took bs enc rest) (b : Bool) : Took (b :: bs) (b :: enc) rest :=
  h.imp (congrArg (b :: ·)) fun ⟨hr, hl⟩ => ⟨hr, Nat.succ_lt_succ hl⟩

theorem Took.append (h : Took bs enc mid) (h' : Took mid enc' rest) : Took bs (enc ++ enc') rest := by
  obtain rfl | ⟨rfl, hlt⟩ := h
  · obtain rfl | ⟨rfl, hlt'⟩ := h'
    · exact .inl (List.append_assoc ..).symm
    · exact .inr ⟨rfl, by simpa using hlt'⟩
  · have hrest : rest = [] := by
      obtain h' | ⟨h', -⟩ := h'
      · exact (List.append_eq_nil_iff.1 h'.symm).2
      · exact h'
    exact .inr ⟨hrest, by rw [List.length_append]; omega⟩

/-- When all the bits are there, the encoding stands in front of the rest. -/
theorem Took.eq_of_length_le (h : Took bs enc rest) (hlen : enc.length ≤ bs.length) : bs = enc ++ rest :=
  h.resolve_right fun ⟨_, hlt⟩ => absurd hlt (Nat.not_lt.2 hlen)

/-- Where bits are left, nothing was missing. -/
theorem Took.eq_of_rest (h : Took bs enc rest) (hr : rest ≠ []) : bs = enc ++ rest := h.resolve_right fun h => hr h.1

/-- Two parts that are all there: the first is, and so is the second in what the first leaves. -/
theorem Took.split (h : Took bs enc mid) (h' : Took mid enc' rest) (hlen : (enc ++ enc').length ≤ bs.length) :
    bs = enc ++ mid ∧ mid = enc' ++ rest := by
  rw [List.length_append] at hlen
  have hbs := h.eq_of_length_le (by omega)
  refine ⟨hbs, h'.eq_of_length_le ?_⟩
  rw [hbs, List.length_append] at hlen
  omega

end

/-! ### One field -/

theorem took_takeNat (n : Nat) : ∀ bs : List Bool, Took bs (bitsOf n (takeNat n bs).1) (takeNat n bs).2 := by
  induction n with
  | zero => exact .nil
  | succ n ih =>
    intro bs
    cases bs with
    | nil => exact .inr ⟨rfl, by simp⟩
    | cons b bs =>
      have hbits : bitsOf (n + 1) (takeNat (n + 1) (b :: bs)).1 = b :: bitsOf n (takeNat n bs).1 := by
        have hdiv : (b.toNat + 2 * (takeNat n bs).1) / 2 = (takeNat n bs).1 := by
          have := b.toNat_le
          omega
        have hmod : ((b.toNat + 2 * (takeNat n bs).1) % 2 == 1) = b := by cases b <;> simp [Nat.add_mod]
        rw [takeNat, bitsOf, hdiv, hmod]
      rw [hbits]
      exact (ih bs).cons b

theorem takeNat_lt (n : Nat) : ∀ bs : List Bool, (takeNat n bs).1 < 2 ^ n := by
  induction n with
  | zero => exact fun _ => Nat.one_pos
  | succ n ih =>
    intro bs
    cases bs with
    | nil => exact Nat.two_pow_pos _
    | cons b bs =>
      have h := ih bs
      have hb := b.toNat_le
      rw [takeNat, pow_succ]
      dsimp only
      omega

theorem took_takeBv (n : Nat) (bs : List Bool) : Took bs (encBv (takeBv n bs).1) (takeBv n bs).2 := by
  have h := took_takeNat n bs
  rwa [← Nat.mod_eq_of_lt (takeNat_lt n bs), ← BitVec.toNat_ofNat] at h

theorem took_takeBit (bs : List Bool) : Took bs [(takeBit bs).1] (takeBit bs).2 := by
  cases bs with
  | nil => exact .inr ⟨rfl, by simp⟩
  | cons b bs => exact .inl rfl

theorem took_takeOption (n : Nat) (bs : List Bool) : Took bs (encOption n (takeOption n bs).1) (takeOption n bs).2 := by
  have h := took_takeBit bs
  unfold takeOption
  dsimp only
  split_ifs with hb
  · rw [hb] at h
    exact h.append (took_takeBv n (takeBit bs).2)
  · rwa [Bool.eq_false_of_not_eq_true hb] at h

/-! ### Repeated fields -/

theorem took_takeBvs (n k : Nat) : ∀ bs : List Bool, Took bs ((takeBvs n k bs).1.flatMap encBv) (takeBvs n k bs).2 := by
  induction k with
  | zero => exact .nil
  | succ k ih => exact fun bs => (took_takeBv n bs).append (ih _)

theorem takeBvs_length (n k : Nat) : ∀ bs : List Bool, (takeBvs n k bs).1.length = k := by
  induction k with
  | zero => exact fun _ => rfl
  | succ k ih => exact fun bs => congrArg (· + 1) (ih _)

theorem took_takeNats (n k : Nat) :
    ∀ bs : List Bool, Took bs ((takeNats n k bs).1.flatMap (bitsOf n)) (takeNats n k bs).2 := by
  induction k with
  | zero => exact .nil
  | succ k ih => exact fun bs => (took_takeNat n bs).append (ih _)

theorem takeNats_length (n k : Nat) : ∀ bs : List Bool, (takeNats n k bs).1.length = k := by
  induction k with
  | zero => exact fun _ => rfl
  | succ k ih => exact fun bs => congrArg (· + 1) (ih _)

theorem takeNats_lt (n k : Nat) : ∀ bs : List Bool, ∀ v ∈ (takeNats n k bs).1, v < 2 ^ n := by
  induction k with
  | zero => exact fun _ _ h => (List.not_mem_nil h).elim
  | succ k ih => exact fun bs => List.forall_mem_cons.2 ⟨takeNat_lt n bs, ih _⟩

theorem took_takeOptions (n k : Nat) :
    ∀ bs : List Bool, Took bs ((takeOptions n k bs).1.flatMap (encOption n)) (takeOptions n k bs).2 := by
  induction k with
  | zero => exact .nil
  | succ k ih => exact fun bs => (took_takeOption n bs).append (ih _)

theorem takeOptions_length (n k : Nat) : ∀ bs : List Bool, (takeOptions n k bs).1.length = k := by
  induction k with
  | zero => exact fun _ => rfl
  | succ k ih => exact fun bs => congrArg (· + 1) (ih _)

/-- With bits left, a byte is taken (42_headers.md R175). -/
theorem takeBytes_succ (k : Nat) {bs : List Bool} (h : bs ≠ []) :
    takeBytes (k + 1) bs = ((takeBv 8 bs).1 :: (takeBytes k (takeBv 8 bs).2).1, (takeBytes k (takeBv 8 bs).2).2) := by
  cases bs with
  | nil => exact absurd rfl h
  | cons b bs => rfl

theorem took_takeBytes (k : Nat) : ∀ bs : List Bool, Took bs (bitsOfBytes (takeBytes k bs).1) (takeBytes k bs).2 := by
  induction k with
  | zero => exact .nil
  | succ k ih =>
    intro bs
    rcases eq_or_ne bs [] with rfl | h
    · exact .nil []
    · rw [takeBytes_succ k h]
      exact (took_takeBv 8 bs).append (ih _)

/-- The string is whole where bits are left behind it. -/
theorem takeBytes_length (k : Nat) :
    ∀ bs : List Bool, (takeBytes k bs).2 ≠ [] → (takeBytes k bs).1.length = k := by
  induction k with
  | zero => exact fun _ _ => rfl
  | succ k ih =>
    intro bs hr
    rcases eq_or_ne bs [] with rfl | h
    · exact absurd rfl hr
    · rw [takeBytes_succ k h] at hr ⊢
      exact congrArg (· + 1) (ih _ hr)

/-! ### Header packets -/

theorem took_checkMagic (ms : List Nat) :
    ∀ (k : Nat) (bs rest : List Bool), checkMagic ms k bs = .inr rest → Took bs (ms.flatMap (bitsOf 8)) rest := by
  induction ms with
  | nil =>
    rintro k bs rest ⟨⟩
    exact .nil bs
  | cons m ms ih =>
    intro k bs rest h
    have hm := took_takeNat 8 bs
    rw [checkMagic] at h
    split_ifs at h with heq
    rw [heq] at hm
    exact hm.append (ih _ _ _ h)

/-- A header packet that decodes has its type and its magic, and its body decodes (42_headers.md R171). -/
theorem took_decodePrefixed {t : Nat} {bs rest : List Bool} {body : List Bool → Decoded} {i : Instr}
    (h : decodePrefixed t bs body = .ok i rest) : ∃ mid, Took bs (encPrefix t) mid ∧ body mid = .ok i rest := by
  have ht := took_takeNat 8 bs
  rw [decodePrefixed] at h
  split_ifs at h with hne
  rw [not_not.1 hne] at ht
  split at h
  · cases h
  · exact ⟨_, ht.append (took_checkMagic _ _ _ _ ‹_›), h⟩

theorem took_decodeIdFields (bs : List Bool) : Took bs (encIdFields (decodeIdFields bs).1) (decodeIdFields bs).2 :=
  (took_takeBv 32 bs).append (took_takeBv 8 _) |>.append (took_takeBv 32 _) |>.append (took_takeBv 32 _)
    |>.append (took_takeBv 32 _) |>.append (took_takeBv 32 _) |>.append (took_takeBv 4 _) |>.append (took_takeBv 4 _)
    |>.append (took_takeBit _)

theorem took_decodeComments (k : Nat) : ∀ bs : List Bool,
    Took bs ((decodeComments k bs).1.flatMap (fun c => encBv c.len ++ bitsOfBytes c.bytes)) (decodeComments k bs).2 := by
  induction k with
  | zero => exact .nil
  | succ k ih =>
    intro bs
    rcases eq_or_ne bs [] with rfl | h
    · exact .nil []
    · rw [decodeComments_succ k h]
      exact ((took_takeBv 32 bs).append (took_takeBytes _ _)).append (ih _)

theorem decodeComments_nil (k : Nat) : decodeComments k [] = ([], []) := by cases k <;> rfl

/-- The comments are whole where bits are left behind them. -/
theorem decodeComments_wf (k : Nat) : ∀ bs : List Bool, (decodeComments k bs).2 ≠ [] →
    (decodeComments k bs).1.length = k ∧ ∀ c ∈ (decodeComments k bs).1, c.bytes.length = c.len.toNat := by
  induction k with
  | zero => exact fun _ _ => ⟨rfl, fun _ h => (List.not_mem_nil h).elim⟩
  | succ k ih =>
    intro bs hr
    rcases eq_or_ne bs [] with rfl | h
    · exact absurd rfl hr
    · rw [decodeComments_succ k h] at hr ⊢
      dsimp only at hr ⊢
      generalize hx : takeBytes (min (takeBv 32 bs).1.toNat bs.length) (takeBv 32 bs).2 = x at hr ⊢
      have hx2 : x.2 ≠ [] := fun h0 => hr (by rw [h0, decodeComments_nil])
      have htook := (took_takeBv 32 bs).append (took_takeBytes (min (takeBv 32 bs).1.toNat bs.length) (takeBv 32 bs).2)
      have hlen := takeBytes_length (min (takeBv 32 bs).1.toNat bs.length) (takeBv 32 bs).2
      rw [hx] at htook hlen
      have hbs := congrArg List.length (htook.eq_of_rest hx2)
      simp only [List.length_append, encBv_length, bitsOfBytes_length] at hbs
      obtain ⟨hk, hall⟩ := ih _ hr
      exact ⟨congrArg (· + 1) hk, List.forall_mem_cons.2 ⟨by have := hlen hx2; dsimp only; omega, hall⟩⟩

theorem took_decodeCommentFields (bs : List Bool) :
    Took bs (encCommentFields (decodeCommentFields bs).1) (decodeCommentFields bs).2 :=
  (took_takeBv 32 bs).append (took_takeBytes _ _) |>.append (took_takeBv 32 _) |>.append (took_decodeComments _ _)
    |>.append (took_takeBit _)

/-- A comment header that the packet holds in full has whole strings (30_encoding.md R84). -/
theorem decodeCommentFields_wf (bs : List Bool) (hlen : (encCommentFields (decodeCommentFields bs).1).length ≤ bs.length) :
    (decodeCommentFields bs).1.wf = true := by
  unfold decodeCommentFields at hlen ⊢
  dsimp only at hlen ⊢
  have tookLen := took_takeBv 32 bs
  generalize takeBv 32 bs = vl at *
  have tookVendor := took_takeBytes (min vl.1.toNat (bs.length + 1)) vl.2
  have hvendor := takeBytes_length (min vl.1.toNat (bs.length + 1)) vl.2
  generalize takeBytes (min vl.1.toNat (bs.length + 1)) vl.2 = vendor at *
  have tookCount := took_takeBv 32 vendor.2
  generalize takeBv 32 vendor.2 = count at *
  have tookComments := took_decodeComments (min count.1.toNat (bs.length + 1)) count.2
  have hcomments := decodeComments_wf (min count.1.toNat (bs.length + 1)) count.2
  generalize decodeComments (min count.1.toNat (bs.length + 1)) count.2 = comments at *
  obtain ⟨hbs, hbit⟩ := ((tookLen.append tookVendor).append tookCount |>.append tookComments).split
    (took_takeBit comments.2) hlen
  have hrest : comments.2 ≠ [] := by
    rw [hbit]
    exact List.cons_ne_nil _ _
  obtain ⟨hn, hall⟩ := hcomments hrest
  have hwhole := hvendor (by
    rw [(tookCount.append tookComments).eq_of_rest hrest]
    exact List.append_ne_nil_of_right_ne_nil _ hrest)
  have hheld := length_le_length_comments comments.1
  have hbits := congrArg List.length hbs
  simp only [List.length_append, encBv_length, bitsOfBytes_length] at hbits
  exact CommentFields.wf_iff.2 ⟨by dsimp only; omega, by dsimp only; omega, hall⟩

/-! ### Codebooks -/

theorem took_decodeCounts (entries fuel : Nat) : ∀ (cur : Nat) (bs : List Bool),
    Took bs (encCounts entries cur (decodeCounts entries fuel cur bs).1) (decodeCounts entries fuel cur bs).2 := by
  induction fuel with
  | zero => exact fun _ => .nil
  | succ fuel ih =>
    intro cur bs
    rw [decodeCounts]
    split_ifs
    · exact .nil bs
    · dsimp only
      split_ifs
      · exact (took_takeNat _ bs).append (.nil _)
      · exact (took_takeNat _ bs).append (ih _ _)

theorem decodeCounts_wf (entries fuel : Nat) : ∀ (cur : Nat) (bs : List Bool),
    orderedWf entries fuel cur (decodeCounts entries fuel cur bs).1 = true := by
  induction fuel with
  | zero => exact fun _ _ => rfl
  | succ fuel ih =>
    intro cur bs
    have hlt := takeNat_lt (countWidth entries cur) bs
    rw [decodeCounts]
    split_ifs with hcur
    · exact decide_eq_true (.inr hcur)
    · dsimp only
      split_ifs with hrun
      · exact orderedWf_cons.2 ⟨Nat.not_le.1 hcur, hlt, by rw [if_pos hrun]⟩
      · exact orderedWf_cons.2 ⟨Nat.not_le.1 hcur, hlt, by rw [if_neg hrun]; exact ih _ _⟩

theorem took_decodeVqFields (t entries dims room : Nat) (bs : List Bool) :
    Took bs (encVqFields (decodeVqFields t entries dims room bs).1) (decodeVqFields t entries dims room bs).2 :=
  (took_takeBv 32 bs).append (took_takeBv 32 _) |>.append (took_takeBv 4 _) |>.append (took_takeBit _)
    |>.append (took_takeNats _ _ _)

theorem decodeVqFields_wf (t entries dims room : Nat) (bs : List Bool) :
    (decodeVqFields t entries dims room bs).1.wf t entries dims room = true :=
  VqFields.wf_iff.2 ⟨takeNats_length _ _ _, takeNats_lt _ _ _⟩

/-! ### Floors -/

theorem took_decodeClass (bs : List Bool) : Took bs (encClass (decodeClass bs).1) (decodeClass bs).2 := by
  have h := (took_takeBv 3 bs).append (took_takeBv 2 _)
  unfold decodeClass
  dsimp only
  split_ifs
  · exact (h.append (.nil _)).append (took_takeBvs 8 _ _)
  · exact (h.append (took_takeBv 8 _)).append (took_takeBvs 8 _ _)

theorem decodeClass_wf (bs : List Bool) : (decodeClass bs).1.wf = true := by
  unfold decodeClass
  dsimp only
  split_ifs with h
  · exact ClassFields.wf_iff.2 ⟨(bne_eq_false_iff_eq.2 h).symm, takeBvs_length _ _ _⟩
  · exact ClassFields.wf_iff.2 ⟨(bne_iff_ne.2 h).symm, takeBvs_length _ _ _⟩

theorem took_decodeClasses (k : Nat) :
    ∀ bs : List Bool, Took bs ((decodeClasses k bs).1.flatMap encClass) (decodeClasses k bs).2 := by
  induction k with
  | zero => exact .nil
  | succ k ih => exact fun bs => (took_decodeClass bs).append (ih _)

theorem decodeClasses_wf (k : Nat) :
    ∀ bs : List Bool, (decodeClasses k bs).1.length = k ∧ ∀ c ∈ (decodeClasses k bs).1, c.wf = true := by
  induction k with
  | zero => exact fun _ => ⟨rfl, fun _ h => (List.not_mem_nil h).elim⟩
  | succ k ih =>
    exact fun bs => ⟨congrArg (· + 1) (ih _).1, List.forall_mem_cons.2 ⟨decodeClass_wf bs, (ih _).2⟩⟩

theorem took_decodeFloorFields (bs : List Bool) :
    Took bs (encFloorFields (decodeFloorFields bs).1) (decodeFloorFields bs).2 := by
  rw [encFloorFields, show (decodeFloorFields bs).1.partClass.length = (takeNat 5 bs).1 from takeBvs_length _ _ _]
  exact (took_takeNat 5 bs).append (took_takeBvs 4 _ _) |>.append (took_decodeClasses _ _) |>.append (took_takeBv 2 _)
    |>.append (took_takeBv 4 _) |>.append (took_takeNats _ _ _)

theorem decodeFloorFields_wf (bs : List Bool) : (decodeFloorFields bs).1.wf = true :=
  FloorFields.wf_iff.2 ⟨(takeBvs_length 4 _ _).trans_lt (takeNat_lt 5 bs), (decodeClasses_wf _ _).1, (decodeClasses_wf _ _).2,
    takeNats_length _ _ _, takeNats_lt _ _ _⟩

/-! ### Residues -/

theorem took_decodeCascades (k : Nat) : ∀ bs : List Bool,
    Took bs ((decodeCascades k bs).1.flatMap (fun c => encBv c.low ++ encOption 5 c.high)) (decodeCascades k bs).2 := by
  induction k with
  | zero => exact .nil
  | succ k ih => exact fun bs => ((took_takeBv 3 bs).append (took_takeOption 5 _)).append (ih _)

theorem decodeCascades_length (k : Nat) : ∀ bs : List Bool, (decodeCascades k bs).1.length = k := by
  induction k with
  | zero => exact fun _ => rfl
  | succ k ih => exact fun bs => congrArg (· + 1) (ih _)

theorem took_decodePassBooks (cs : List CascadeFields) : ∀ bs : List Bool,
    Took bs ((decodePassBooks cs bs).1.flatMap (fun row => row.flatMap encBv)) (decodePassBooks cs bs).2 := by
  induction cs with
  | nil => exact .nil
  | cons c cs ih => exact fun bs => (took_takeBvs 8 _ bs).append (ih _)

theorem decodePassBooks_length (cs : List CascadeFields) : ∀ bs : List Bool,
    (decodePassBooks cs bs).1.map List.length = cs.map (fun c => passCount (cascadeValue c)) := by
  induction cs with
  | nil => exact fun _ => rfl
  | cons c cs ih => exact fun bs => congrArg₂ List.cons (takeBvs_length 8 _ bs) (ih _)

theorem took_decodeResidueFields (bs : List Bool) :
    Took bs (encResidueFields (decodeResidueFields bs).1) (decodeResidueFields bs).2 :=
  (took_takeBv 24 bs).append (took_takeBv 24 _) |>.append (took_takeBv 24 _) |>.append (took_takeBv 6 _)
    |>.append (took_takeBv 8 _) |>.append (took_decodeCascades _ _) |>.append (took_decodePassBooks _ _)

theorem decodeResidueFields_wf (bs : List Bool) : (decodeResidueFields bs).1.wf = true :=
  ResidueFields.wf_iff.2 ⟨decodeCascades_length _ _, decodePassBooks_length _ _⟩

/-! ### Mappings -/

theorem took_decodeSteps (w k : Nat) : ∀ bs : List Bool,
    Took bs ((decodeSteps w k bs).1.flatMap (fun p => bitsOf w p.1 ++ bitsOf w p.2)) (decodeSteps w k bs).2 := by
  induction k with
  | zero => exact .nil
  | succ k ih => exact fun bs => ((took_takeNat w bs).append (took_takeNat w _)).append (ih _)

theorem decodeSteps_wf (w k : Nat) : ∀ bs : List Bool,
    (decodeSteps w k bs).1.length = k ∧ ∀ p ∈ (decodeSteps w k bs).1, p.1 < 2 ^ w ∧ p.2 < 2 ^ w := by
  induction k with
  | zero => exact fun _ => ⟨rfl, fun _ h => (List.not_mem_nil h).elim⟩
  | succ k ih =>
    exact fun bs => ⟨congrArg (· + 1) (ih _).1, List.forall_mem_cons.2 ⟨⟨takeNat_lt w _, takeNat_lt w _⟩, (ih _).2⟩⟩

theorem took_decodeSubmaps (k : Nat) : ∀ bs : List Bool,
    Took bs ((decodeSubmaps k bs).1.flatMap (fun s => encBv s.placeholder ++ encBv s.floor ++ encBv s.residue))
      (decodeSubmaps k bs).2 := by
  induction k with
  | zero => exact .nil
  | succ k ih =>
    exact fun bs => (((took_takeBv 8 bs).append (took_takeBv 8 _)).append (took_takeBv 8 _)).append (ih _)

theorem decodeSubmaps_length (k : Nat) : ∀ bs : List Bool, (decodeSubmaps k bs).1.length = k := by
  induction k with
  | zero => exact fun _ => rfl
  | succ k ih => exact fun bs => congrArg (· + 1) (ih _)

/-- The coupling section of a mapping as it is decoded (30_encoding.md R90). -/
def decodeCoupling (w : Nat) (bs : List Bool) : Option (List (Nat × Nat)) × List Bool :=
  match (takeOption 8 bs).1 with
  | none => (none, (takeOption 8 bs).2)
  | some k => (some (decodeSteps w (plusOne k) (takeOption 8 bs).2).1, (decodeSteps w (plusOne k) (takeOption 8 bs).2).2)

theorem took_decodeCoupling (w : Nat) (bs : List Bool) :
    Took bs (encCoupling w (decodeCoupling w bs).1) (decodeCoupling w bs).2 := by
  have h := took_takeOption 8 bs
  unfold decodeCoupling
  cases hk : (takeOption 8 bs).1 with
  | none => rwa [hk] at h
  | some k =>
    rw [hk] at h
    have hsteps := h.append (took_decodeSteps w (plusOne k) (takeOption 8 bs).2)
    have hcount : (decodeSteps w (plusOne k) (takeOption 8 bs).2).1.length - 1 = k.toNat := by
      rw [(decodeSteps_wf _ _ _).1]
      rfl
    dsimp only
    rw [encCoupling, hcount]
    exact hsteps

theorem decodeCoupling_wf (w : Nat) (bs : List Bool) (steps : List (Nat × Nat)) (h : (decodeCoupling w bs).1 = some steps) :
    (0 < steps.length ∧ steps.length ≤ 256) ∧ ∀ p ∈ steps, p.1 < 2 ^ w ∧ p.2 < 2 ^ w := by
  unfold decodeCoupling at h
  cases hk : (takeOption 8 bs).1 with
  | none => simp [hk] at h
  | some k =>
    rw [hk] at h
    obtain ⟨hlen, hlt⟩ := decodeSteps_wf w (plusOne k) (takeOption 8 bs).2
    rw [Option.some.inj h] at hlen hlt
    have := k.isLt
    rw [hlen, plusOne]
    exact ⟨by omega, hlt⟩

/-- A mapping, with its coupling section by name. -/
theorem decodeMapFields_eq (channels : Nat) (bs : List Bool) :
    decodeMapFields channels bs =
      let submapsM1 := takeOption 4 bs
      let coupling := decodeCoupling (couplingWidth channels) submapsM1.2
      let reserved := takeBv 2 coupling.2
      let mux := takeBvs 4 (if 1 < submapCount submapsM1.1 then channels else 0) reserved.2
      let subs := decodeSubmaps (submapCount submapsM1.1) mux.2
      ({ submapsM1 := submapsM1.1, coupling := coupling.1, reserved := reserved.1, mux := mux.1, subs := subs.1 },
        subs.2) := rfl

theorem took_decodeMapFields (channels : Nat) (bs : List Bool) :
    Took bs (encMapFields channels (decodeMapFields channels bs).1) (decodeMapFields channels bs).2 := by
  rw [decodeMapFields_eq]
  exact (took_takeOption 4 bs).append (took_decodeCoupling _ _) |>.append (took_takeBv 2 _) |>.append (took_takeBvs 4 _ _)
    |>.append (took_decodeSubmaps _ _)

theorem decodeMapFields_wf (channels : Nat) (bs : List Bool) : (decodeMapFields channels bs).1.wf channels = true := by
  rw [decodeMapFields_eq]
  exact MapFields.wf_iff.2 ⟨decodeCoupling_wf _ _, takeBvs_length _ _ _, decodeSubmaps_length _ _⟩

end Sys2Proof
end

section
/-! The bits that were decoded are the encoding of what they were decoded to (30_encoding.md R80 to R95). -/

namespace Sys2Proof

/-! ### Pages -/

theorem leBytes_leNat (bytes : List Byte) : leBytes bytes.length (leNat bytes) = bytes := by
  induction bytes with
  | nil => rfl
  | cons b bytes ih =>
    have hb := b.isLt
    rw [List.length_cons, leNat, leBytes, show (b.toNat + 256 * leNat bytes) / 256 = leNat bytes by omega, ih]
    congr 1
    bv_omega

/-- A little-endian field of `n` bytes, read as a word and written again (20_memory.md R61). -/
theorem leBytes_ofNat_leNat {n w : Nat} (hw : w = 8 * n) {bytes : List Byte} (hlen : bytes.length = n) :
    leBytes n (BitVec.ofNat w (leNat bytes)).toNat = bytes := by
  subst hw hlen
  have hlt := Machine.leNat_lt bytes
  rw [show 256 ^ bytes.length = 2 ^ (8 * bytes.length) from (pow_mul 2 8 _).symm] at hlt
  rw [BitVec.toNat_ofNat, Nat.mod_eq_of_lt hlt, leBytes_leNat]

theorem take_one_drop {bytes : List Byte} {k : Nat} (h : k < bytes.length) : (bytes.drop k).take 1 = [bytes.getD k 0] := by
  rw [List.drop_eq_getElem_cons h, List.getD_eq_getElem _ _ h]
  rfl

section
variable {bytes : List Byte}

theorem checkHeader_none (h : checkHeader bytes = none) :
    leNat (bytes.take 4) = 0x5367674F ∧ bytes.getD 4 0 = 0 ∧ (bytes.getD 5 0).toNat ≤ 7 := by
  unfold checkHeader at h
  split_ifs at h with hcapture hversion htype
  exact ⟨not_not.1 hcapture, not_not.1 hversion, Nat.not_lt.1 htype⟩

/-- The bytes that a page was read from are its encoding (30_encoding.md R80). -/
theorem encodePage_pageOf (hcheck : checkHeader bytes = none)
    (hsegs : (segsOf bytes).length = (bytes.getD 26 0).toNat)
    (hpay : (payloadOf bytes).length = total ((segsOf bytes).map BitVec.toNat)) (h27 : 27 ≤ bytes.length) :
    encodePage (pageOf bytes) = bytes.take (pageOf bytes).byteLength := by
  obtain ⟨hcapture, hversion, htype⟩ := checkHeader_none hcheck
  have capture : leBytes 4 0x5367674F = bytes.take 4 := by
    have h := leBytes_leNat (bytes.take 4)
    rwa [hcapture, List.length_take_of_le (by omega)] at h
  have version : [0] = (bytes.drop 4).take 1 := by rw [take_one_drop (by omega), hversion]
  have htypeByte : [BitVec.ofNat 8 (pageOf bytes).htype.toNat] = (bytes.drop 5).take 1 := by
    rw [take_one_drop (by omega), pageOf]
    congr 1
    bv_omega
  have field {n w k : Nat} (hw : w = 8 * n) (hk : k + n ≤ 27) :
      leBytes n (BitVec.ofNat w (leNat ((bytes.drop k).take n))).toNat = (bytes.drop k).take n :=
    leBytes_ofNat_leNat hw (by simp; omega)
  have nseg : [BitVec.ofNat 8 (pageOf bytes).segs.length] = (bytes.drop 26).take 1 := by
    rw [take_one_drop (by omega), pageOf]
    dsimp only
    rw [hsegs, BitVec.ofNat_toNat, BitVec.setWidth_eq]
  rw [encodePage, capture, version, htypeByte, nseg, Page.byteLength]
  simp only [pageOf]
  rw [field rfl (by decide), field rfl (by decide), field rfl (by decide), field rfl (by decide), hsegs, hpay, segsOf,
    payloadOf]
  simp only [headerBytes, ← List.take_add, Nat.reduceAdd]
  rfl

/-- A byte string that is a page begins with the encoding of that page (30_encoding.md R80). -/
theorem decodePage_ok {p : Page} (h : decodePage bytes = .ok p) :
    p.wf = true ∧ p.byteLength ≤ bytes.length ∧ encodePage p = bytes.take p.byteLength := by
  unfold decodePage at h
  split at h
  · cases h
  · split at h
    · cases h
    · rename_i h27 _ hcheck
      split_ifs at h with hsegs hpay
      cases h
      rw [headerBytes] at h27 hsegs hpay
      have hslen : (segsOf bytes).length = (bytes.getD 26 0).toNat := by
        simp only [segsOf, headerBytes, List.length_take, List.length_drop]
        omega
      have hplen : (payloadOf bytes).length = total ((segsOf bytes).map BitVec.toNat) := by
        simp only [payloadOf, headerBytes, List.length_take, List.length_drop]
        omega
      have hbyte := (bytes.getD 26 0).isLt
      refine ⟨?_, ?_, encodePage_pageOf hcheck hslen hplen (Nat.not_lt.1 h27)⟩
      · exact Page.wf_iff.2 ⟨hslen.trans_lt hbyte, hplen⟩
      · rw [Page.byteLength, pageOf]
        dsimp only
        rw [headerBytes]
        omega

end

/-- Whole bytes of a bit string, as bits again. -/
theorem bitsOfBytes_bytesOfBits (n : Nat) : ∀ bs : List Bool, 8 * n ≤ bs.length →
    bs = bitsOfBytes (bytesOfBits n bs) ++ bs.drop (8 * n) := by
  induction n with
  | zero => exact fun _ _ => rfl
  | succ n ih =>
    intro bs h
    have hbyte := (took_takeBv 8 bs).eq_of_length_le (by simp; omega)
    have hlen := congrArg List.length hbyte
    rw [List.length_append, encBv_length] at hlen
    have hdrop : bs.drop 8 = (takeBv 8 bs).2 := by
      conv_lhs => rw [hbyte]
      exact List.drop_left' (encBv_length _)
    rw [bytesOfBits, bitsOfBytes_cons, List.append_assoc, Nat.mul_succ, Nat.add_comm, ← List.drop_drop, hdrop,
      ← ih _ (by omega)]
    exact hbyte

theorem decode_page_ok {bs rest : List Bool} {i : Instr} (h : decode .page bs = .ok i rest) :
    bs = encode .page i ++ rest ∧ i.wf .page = true := by
  rw [decode] at h
  split at h
  · cases h
  · cases h
  · rename_i p hp
    cases h
    obtain ⟨hwf, hle, henc⟩ := decodePage_ok hp
    have hbits := bitsOfBytes_bytesOfBits (bs.length / 8) bs (by omega)
    rw [← List.take_append_drop p.byteLength (bytesOfBits _ bs), bitsOfBytes_append, List.append_assoc, ← henc] at hbits
    refine ⟨?_, hwf⟩
    conv_rhs => rw [hbits]
    rw [encode, List.drop_left' (by rw [bitsOfBytes_length, encodePage_length])]
    exact hbits

/-! ### The decoder -/

/-- A selector of known value was taken. -/
theorem took_selector {n v : Nat} {bs : List Bool} (h : (takeNat n bs).1 = v) : Took bs (bitsOf n v) (takeNat n bs).2 :=
  h ▸ took_takeNat n bs

/-- A one-bit selector of known value was taken. -/
theorem took_flag {b : Bool} {bs : List Bool} (h : (takeBit bs).1 = b) : Took bs [b] (takeBit bs).2 := h ▸ took_takeBit bs

/-- What was decoded was taken, and is well formed when all its bits are there. -/
theorem decode_took {c : Ctx} {bs rest : List Bool} {i : Instr} (h : decode c bs = .ok i rest) :
    Took bs (encode c i) rest ∧ ((encode c i).length ≤ bs.length → i.wf c = true) := by
  cases c with
  | page =>
    obtain ⟨hbs, hwf⟩ := decode_page_ok h
    exact ⟨.inl hbs, fun _ => hwf⟩
  | idHdr =>
    obtain ⟨mid, hmid, h⟩ := took_decodePrefixed h
    cases h
    exact ⟨hmid.append (took_decodeIdFields mid), fun _ => rfl⟩
  | commentHdr =>
    obtain ⟨mid, hmid, h⟩ := took_decodePrefixed h
    cases h
    have htook := took_decodeCommentFields mid
    refine ⟨hmid.append htook, fun hlen => decodeCommentFields_wf mid ?_⟩
    have hbody := congrArg List.length (hmid.split htook hlen).2
    rw [List.length_append] at hbody
    omega
  | setupHdr =>
    obtain ⟨mid, hmid, h⟩ := took_decodePrefixed h
    cases h
    exact ⟨hmid.append (took_takeBv 8 mid), fun _ => rfl⟩
  | codebook b =>
    rw [decode] at h
    split_ifs at h with hsync
    cases h
    exact ⟨(took_selector (not_not.1 hsync)).append (took_takeBv 16 _) |>.append (took_takeBv 24 _), fun _ => rfl⟩
  | lengths entries =>
    rw [decode, decodeLengths] at h
    dsimp only at h
    split_ifs at h with ho hs
    all_goals cases h
    · exact ⟨(took_flag ho).append (took_takeBv 5 _) |>.append (took_decodeCounts _ _ _ _), fun _ => decodeCounts_wf _ _ _ _⟩
    · exact ⟨(took_flag (Bool.eq_false_of_not_eq_true ho)).append (took_flag hs) |>.append (took_takeOptions 5 _ _),
        fun _ => decide_eq_true (takeOptions_length _ _ _)⟩
    · exact ⟨(took_flag (Bool.eq_false_of_not_eq_true ho)).append (took_flag (Bool.eq_false_of_not_eq_true hs))
          |>.append (took_takeBvs 5 _ _), fun _ => decide_eq_true (takeBvs_length _ _ _)⟩
  | lookup b entries dims room =>
    rw [decode, decodeLookup] at h
    split at h
    case h_4 => cases h
    all_goals
      have htype := took_selector (n := 4) ‹_›
      cases h
    · exact ⟨htype, fun _ => rfl⟩
    · exact ⟨htype.append (took_decodeVqFields _ _ _ _ _), fun _ => decodeVqFields_wf _ _ _ _ _⟩
    · exact ⟨htype.append (took_decodeVqFields _ _ _ _ _), fun _ => decodeVqFields_wf _ _ _ _ _⟩
  | time t =>
    rw [decode] at h
    split_ifs at h with htype
    cases h
    exact ⟨took_selector (not_not.1 htype), fun _ => rfl⟩
  | floor k =>
    rw [decode] at h
    split_ifs at h with htype
    cases h
    exact ⟨(took_selector (not_not.1 htype)).append (took_decodeFloorFields _), fun _ => decodeFloorFields_wf _⟩
  | residue k =>
    rw [decode] at h
    split at h
    case h_4 => cases h
    all_goals
      have htype := took_selector (n := 16) ‹_›
      cases h
      exact ⟨htype.append (took_decodeResidueFields _), fun _ => decodeResidueFields_wf _⟩
  | mapping k channels =>
    rw [decode] at h
    split_ifs at h with htype
    cases h
    exact ⟨(took_selector (not_not.1 htype)).append (took_decodeMapFields _ _), fun _ => decodeMapFields_wf _ _⟩
  | mode k =>
    rw [decode, decodeMode] at h
    split_ifs at h with hwindow htransform
    cases h
    exact ⟨(took_takeBit bs).append (took_selector (not_not.1 hwindow)) |>.append (took_selector (not_not.1 htransform))
      |>.append (took_takeBv 8 _), fun _ => rfl⟩
  | audio modes =>
    rw [decode] at h
    split_ifs at h with htype
    cases h
    exact ⟨(took_flag (Bool.eq_false_of_not_eq_true htype)).append (took_takeNat _ _),
      fun _ => decide_eq_true (takeNat_lt _ _)⟩
  | window =>
    cases h
    exact ⟨(took_takeBit bs).append (took_takeBit _), fun _ => rfl⟩
  | floorPayload range =>
    rw [decode] at h
    split_ifs at h with hflag
    all_goals cases h
    · exact ⟨(took_flag hflag).append ((took_takeNat _ _).append (took_takeNat _ _)),
        fun _ => decide_eq_true ⟨takeNat_lt _ _, takeNat_lt _ _⟩⟩
    · exact ⟨took_flag (Bool.eq_false_of_not_eq_true hflag), fun _ => rfl⟩
  | residuePayload t =>
    cases t <;> cases h <;> exact ⟨.nil bs, fun _ => rfl⟩

/-- Settles O3: when all the bits are there, what was taken stands in front of what is left. -/
theorem decodeThenEncode : Obligations.DecodeThenEncode := by
  unfold Obligations.DecodeThenEncode
  intro c bs i rest h hlen
  obtain ⟨htook, hwf⟩ := decode_took h
  exact ⟨hwf hlen, htook.eq_of_length_le hlen⟩

end Sys2Proof
end

section
/-! Illegal selectors (30_encoding.md R97, 42_headers.md R171), and words written out from the layouts. -/

namespace Sys2Proof

/-! ### Words -/

/-- Settles O1: each word is decoded. -/
theorem decodesWrittenWords : Obligations.DecodesWrittenWords := by
  unfold Obligations.DecodesWrittenWords
  decide +kernel

/-! ### Illegal selectors -/

theorem takeNat_snd (n : Nat) : ∀ bs : List Bool, (takeNat n bs).2 = bs.drop n := by
  induction n with
  | zero => exact fun _ => rfl
  | succ n ih =>
    intro bs
    cases bs with
    | nil => rfl
    | cons b bs => exact ih bs

theorem takeBit_eq (bs : List Bool) : takeBit bs = (bs.headD false, bs.drop 1) := by cases bs <;> rfl

/-- The first byte of the magic that differs is the one found (42_headers.md R171). -/
theorem checkMagic_inl (ms : List Nat) : ∀ (j k : Nat) (bs : List Bool), k < ms.length →
    (∀ i < k, (takeNat 8 (bs.drop (8 * i))).1 = ms.getD i 0) → (takeNat 8 (bs.drop (8 * k))).1 ≠ ms.getD k 0 →
    checkMagic ms j bs = .inl (j + k) := by
  induction ms with
  | nil => exact fun _ k _ hk => absurd hk (Nat.not_lt_zero k)
  | cons m ms ih =>
    intro j k bs hk hlt hne
    rw [checkMagic]
    cases k with
    | zero => exact if_neg hne
    | succ k =>
      refine (if_pos (hlt 0 (Nat.succ_pos k))).trans ?_
      rw [takeNat_snd, ih (j + 1) k (bs.drop 8) (Nat.lt_of_succ_lt_succ hk), Nat.add_right_comm, Nat.add_assoc]
      · exact fun i hi => by simpa [Nat.mul_succ, Nat.add_comm] using hlt (i + 1) (Nat.succ_lt_succ hi)
      · simpa [Nat.mul_succ, Nat.add_comm] using hne

section
variable {t : Nat} {bs : List Bool} {body : List Bool → Decoded}

theorem decodePrefixed_type (h : (takeNat 8 bs).1 ≠ t) :
    decodePrefixed t bs body = .illegal .hdrType (takeNat 8 bs).1 [8] 0 := if_pos h

theorem decodePrefixed_magic {k : Nat} (hk : k < 6) (ht : (takeNat 8 bs).1 = t)
    (hlt : ∀ j < k, (takeNat 8 (bs.drop (8 + 8 * j))).1 = magicBytes.getD j 0)
    (hne : (takeNat 8 (bs.drop (8 + 8 * k))).1 ≠ magicBytes.getD k 0) :
    decodePrefixed t bs body = .illegal .hdrMagic k (List.replicate (k + 2) 8) 0 := by
  simp only [← List.drop_drop] at hlt hne
  rw [decodePrefixed, takeNat_snd]
  rw [if_neg (not_not.2 ht), checkMagic_inl magicBytes 0 k _ hk hlt hne, Nat.zero_add]

end

/-- Settles O4: each selector that is not the value of its rule is refused. -/
theorem illegalSelectors : Obligations.IllegalSelectors := by
  unfold Obligations.IllegalSelectors
  intro bs
  refine ⟨fun t h => ⟨0, if_pos h⟩, fun k h => ⟨0, if_pos h⟩, fun k h => ⟨0, ?residue⟩, fun k ch h => ⟨0, if_pos h⟩,
    fun b h => ⟨0, if_pos h⟩, fun b n d r h => ?lookup, fun k h => ?window, fun k h0 h => ?transform,
    fun n h => ⟨0, if_pos (by rwa [takeBit_eq])⟩, fun c t hct => ?header⟩
  case residue =>
    rw [decode]
    split
    case h_4 => rfl
    all_goals
      rename_i hv
      rw [hv] at h
      omega
  case lookup =>
    rw [decode, decodeLookup]
    split
    case h_4 => rfl
    all_goals
      rename_i hv
      rw [hv] at h
      omega
  case window =>
    refine ⟨(bs.headD false).toNat, ?_⟩
    rw [decode, decodeMode, takeBit_eq]
    exact if_pos h
  case transform =>
    refine ⟨(bs.headD false).toNat, ?_⟩
    rw [decode, decodeMode, takeBit_eq]
    dsimp only
    rw [takeNat_snd]
    exact (if_neg (not_not.2 h0)).trans (if_pos (by rwa [List.drop_drop]))
  case header =>
    have hdecode : ∃ body, decode c bs = decodePrefixed t bs body := by
      simp only [List.mem_cons, Prod.mk.injEq, List.not_mem_nil, or_false] at hct
      rcases hct with ⟨rfl, rfl⟩ | ⟨rfl, rfl⟩ | ⟨rfl, rfl⟩ <;> exact ⟨_, rfl⟩
    obtain ⟨body, hbody⟩ := hdecode
    rw [hbody]
    exact ⟨fun h => ⟨0, decodePrefixed_type h⟩, fun k hk ht hlt hne => ⟨0, decodePrefixed_magic hk ht hlt hne⟩⟩

end Sys2Proof
end

section
/-! The step at a unit of the packet: run when it decodes, the abort when its selector is illegal (30_encoding.md R96, R97). -/

namespace Sys2Proof

/-! ### What an illegal selector answers -/

theorem checkHeader_some {bytes : List Byte} {e : ErrCode} (h : checkHeader bytes = some e) :
    e = .pageCapture ∨ e = .pageVersion ∨ e = .pageHtype := by
  unfold checkHeader at h
  split_ifs at h <;> cases h <;> decide

/-- The fields read up to an illegal selector are at most 32 bits wide, and what is written before the check is the lookup type
or the block flag that was read (30_encoding.md R97, 43_codebook.md R215, 42_headers.md R182). -/
structure IllegalRead (c : Ctx) (bs : List Bool) (e : ErrCode) (ws : List Nat) (head : Nat) : Prop where
  widths : ∀ w ∈ ws, w ≤ 32
  lookup : e = .cbLookup → (∃ b n d r, c = .lookup b n d r) ∧ head = (takeNat 4 bs).1
  mode : e = .modeWindow ∨ e = .modeTransform → head = (takeBit bs).1.toNat

theorem IllegalRead.of_other {c : Ctx} {bs : List Bool} {e : ErrCode} {ws : List Nat} {head : Nat}
    (hws : ∀ w ∈ ws, w ≤ 32) (he : e ≠ .cbLookup ∧ e ≠ .modeWindow ∧ e ≠ .modeTransform) : IllegalRead c bs e ws head :=
  ⟨hws, fun h => absurd h he.1, fun h => (h.elim he.2.1 he.2.2).elim⟩

theorem decodePage_illegal {bytes : List Byte} {e : ErrCode} (h : decodePage bytes = .illegal e) :
    e = .pageCapture ∨ e = .pageVersion ∨ e = .pageHtype := by
  unfold decodePage at h
  split at h
  · cases h
  · split at h
    · cases h
      exact checkHeader_some ‹_›
    · split_ifs at h

theorem decodePrefixed_illegal {c : Ctx} {t : Nat} {bs : List Bool} {body : List Bool → Decoded} {e : ErrCode} {k head : Nat}
    {ws : List Nat} (hbody : ∀ rest, ∃ i rest', body rest = .ok i rest') (h : decodePrefixed t bs body = .illegal e k ws head) :
    IllegalRead c bs e ws head := by
  unfold decodePrefixed at h
  dsimp only at h
  split_ifs at h
  · cases h
    exact .of_other (by simp) (by decide)
  · split at h
    · cases h
      exact .of_other (by simp) (by decide)
    · obtain ⟨i, rest', hok⟩ := hbody _
      rw [hok] at h
      cases h

theorem decode_illegal {c : Ctx} {bs : List Bool} {e : ErrCode} {k head : Nat} {ws : List Nat}
    (h : decode c bs = .illegal e k ws head) : IllegalRead c bs e ws head := by
  cases c with
  | page =>
    rw [decode] at h
    split at h
    · cases h
      exact .of_other (by simp) (by decide)
    · cases h
      refine .of_other (by simp) ?_
      rcases decodePage_illegal ‹_› with rfl | rfl | rfl <;> decide
    · cases h
  | idHdr => exact decodePrefixed_illegal (fun _ => ⟨_, _, rfl⟩) h
  | commentHdr => exact decodePrefixed_illegal (fun _ => ⟨_, _, rfl⟩) h
  | setupHdr => exact decodePrefixed_illegal (fun _ => ⟨_, _, rfl⟩) h
  | codebook b =>
    rw [decode] at h
    split_ifs at h
    cases h
    exact .of_other (by simp) (by decide)
  | lengths entries =>
    rw [decode, decodeLengths] at h
    dsimp only at h
    split_ifs at h
  | lookup b n d r =>
    rw [decode, decodeLookup] at h
    split at h
    case h_4 =>
      cases h
      exact ⟨by simp, fun _ => ⟨⟨_, _, _, _, rfl⟩, rfl⟩, by simp⟩
    all_goals cases h
  | time t | floor k | mapping k channels =>
    rw [decode] at h
    split_ifs at h
    cases h
    exact .of_other (by simp) (by decide)
  | residue k =>
    rw [decode] at h
    split at h
    case h_4 =>
      cases h
      exact .of_other (by simp) (by decide)
    all_goals cases h
  | mode k =>
    rw [decode, decodeMode] at h
    split_ifs at h
    all_goals
      cases h
      exact ⟨by simp, by simp, fun _ => rfl⟩
  | audio modes =>
    rw [decode] at h
    split_ifs at h
    cases h
    exact .of_other (by simp) (by decide)
  | window => cases h
  | floorPayload range =>
    rw [decode] at h
    split_ifs at h
  | residuePayload t => cases t <;> cases h

end Sys2Proof

namespace Sys2Proof.Machine

open Sys2Proof

/-! ### The step -/

section
variable {s : State}

theorem step_of_ctx {c : Ctx} (hq : s.hostQ = []) (hb : s.phase.busy = true) (hc : s.ctx = some c) :
    step s = (fetchUnit s).outcome s := by
  rw [step_busy hq hb, fetchCore_of_ctx hc]
  rfl

/-! ### What is written before the abort -/

theorem illegalWrites_frame (e : ErrCode) (head : Nat) (s : State) :
    illegalWrites e head s =
      { s with codebooks := (illegalWrites e head s).codebooks, modes := (illegalWrites e head s).modes } := by
  unfold illegalWrites
  split <;> rfl

theorem illegalWrites_codebooks {e : ErrCode} (he : e ≠ .cbLookup) (head : Nat) (s : State) :
    (illegalWrites e head s).codebooks = s.codebooks := by
  unfold illegalWrites
  split
  · exact absurd rfl he
  all_goals rfl

theorem illegalWrites_modes {e : ErrCode} (hw : e ≠ .modeWindow) (ht : e ≠ .modeTransform) (head : Nat) (s : State) :
    (illegalWrites e head s).modes = s.modes := by
  unfold illegalWrites
  split
  · rfl
  · exact absurd rfl hw
  · exact absurd rfl ht
  · rfl

/-- What the context of a unit has from the configuration that sizes its fields (30_encoding.md R95). -/
def State.sizes (s : State) : Ctx → Prop
  | .lengths n => ∃ b, s.book = some b ∧ b.entries = n
  | .lookup _ n d _ => ∃ b, s.book = some b ∧ b.entries = n ∧ b.dims = d
  | .mapping _ channels => channels = s.cfg.channels
  | .audio modes => modes = s.nModes
  | _ => True

theorem sizes_of_packetCtx {c : Ctx} (h : s.packetCtx = some c) : s.sizes c := by
  unfold State.packetCtx at h
  cases hp : s.phase with
  | hdrId | hdrComment | hdrSetup =>
    rw [hp] at h
    cases h
    trivial
  | audio =>
    rw [hp] at h
    cases h
    rfl
  | idle | done | error =>
    rw [hp] at h
    cases h

theorem sizes_of_ctx {c : Ctx} (h : s.ctx = some c) : s.sizes c := by
  unfold State.ctx at h
  cases hq : s.seq with
  | packet =>
    rw [hq] at h
    exact sizes_of_packetCtx h
  | codebook | time _ _ | floor | residue | mode | window =>
    rw [hq] at h
    cases h
    trivial
  | mapping =>
    rw [hq] at h
    cases h
    rfl
  | lengths =>
    rw [hq] at h
    obtain ⟨b, hb, rfl⟩ := Option.map_eq_some_iff.1 h
    exact ⟨b, hb, rfl⟩
  | lookup =>
    rw [hq] at h
    obtain ⟨b, hb, rfl⟩ := Option.map_eq_some_iff.1 h
    exact ⟨b, hb, rfl, rfl⟩
  | floorPayload _ | residuePayload _ =>
    rw [hq] at h
    obtain ⟨_, -, rfl⟩ := Option.map_eq_some_iff.1 h
    trivial
  | boundary | assemble _ | huffBuild | count _ | framing | curves | couple | synth | emit _ =>
    rw [hq] at h
    cases h

/-- There is a codebook under decode when one is found, and it is the last of the table. -/
theorem codebooks_of_book {b : Codebook} (h : s.book = some b) : ∃ books, s.codebooks = books ++ [b] := by
  rcases List.eq_nil_or_concat s.codebooks with hnil | ⟨books, k, hk⟩
  · rw [State.book, hnil] at h
    cases h
  · rw [List.concat_eq_append] at hk
    rw [(book_last hk).1] at h
    exact ⟨books, Option.some.inj h ▸ hk⟩

end

/-- Settles O5: a decoded unit and a decoded page are run, and a core at rest stays as it is. -/
theorem stepRunsDecoded : Obligations.StepRunsDecoded := by
  unfold Obligations.StepRunsDecoded
  refine fun s hq => ⟨fun hb => ⟨fun c i rest hc hd => ?unit, fun b p hseq hn hd => ?page⟩, step_rest hq⟩
  case unit =>
    rw [step_of_ctx hq hb hc, fetchUnit_ok hc hd]
    rfl
  case page =>
    rw [step_assemble hq hb hseq, fetchSegment, if_pos hn, hd]
    rfl

/-- The next bit of the packet, as the decoder reads it. -/
theorem takeBit_rest (r : Reader) : (takeBit r.rest).1 = packetBit r.bytes r.pos := by
  rw [takeBit_eq, Reader.rest, ← bitsOfBytes_getD, List.headD_eq_head?_getD, List.head?_drop]

/-- Settles O6, by what the decoder answers at an illegal selector and what is written before its check. -/
theorem stepTakesIllegal : Obligations.StepTakesIllegal := by
  unfold Obligations.StepTakesIllegal
  intro s c e k ws h hq hb hc hd
  have hr := decode_illegal hd
  have hstep : step s = .next ((illegalWrites e h (s.skips ws)).raise e k) := by
    rw [step_of_ctx hq hb hc, fetchUnit_illegal hc hd]
    rfl
  have hframe := illegalWrites_frame e h (s.skips ws)
  refine ⟨_, hstep, ?_, ?_, fun he => ?lookup, fun he => illegalWrites_codebooks he h _, fun he => ?mode,
    fun hw ht => illegalWrites_modes hw ht h _, fun hi => ?_⟩
  case lookup =>
    obtain ⟨⟨b, n, d, r, rfl⟩, rfl⟩ := hr.lookup he
    obtain ⟨k, hbook, -, -⟩ := sizes_of_ctx hc
    obtain ⟨books, hk⟩ := codebooks_of_book hbook
    subst he
    refine ⟨books, k, hk, ?_⟩
    rw [illegalWrites, modifyBook_last (s := s.skips ws) hk, Reader.rest, takeNat_drop]
    rfl
  case mode =>
    have hhead := hr.mode he
    rw [takeBit_rest] at hhead
    have hflag : (h == 1) = packetBit s.pkt s.pktBitpos := by
      rw [hhead]
      exact (by decide : ∀ b : Bool, (b.toNat == 1) = b) _
    rw [← hflag]
    rcases he with rfl | rfl <;> rfl
  · rw [hframe]
    exact ⟨rfl, rfl, rfl⟩
  · rw [hframe]
    rfl
  · refine readBy_skips hi hr.widths ?_ ?_
    · rw [hframe]
      rfl
    · rw [hframe]
      rfl

end Sys2Proof.Machine
end

section
/-! Packet assembly (40_ogg_demuxer.md R127, 30_encoding.md R81). -/

namespace Sys2Proof.Machine

open Sys2Proof

/-! ### Segments -/

/-- `s` after `k` segments of `n` bytes in all, the last of them full or not (40_ogg_demuxer.md R127). -/
def State.tookSegments (s : State) (k n : Nat) (more : Bool) : State :=
  { s with
    pkt := s.pkt ++ (s.pg.payload.drop s.payCursor).take n
    payCursor := s.payCursor + n
    segCursor := s.segCursor + k
    pktContinuing := more
    seq := if more then .assemble true else .packet }

theorem tookSegments_tookSegments (s : State) (k n k' n' : Nat) (b more : Bool) :
    (s.tookSegments k n b).tookSegments k' n' more = s.tookSegments (k + k') (n + n') more := by
  simp only [State.tookSegments, List.append_assoc, ← List.drop_drop, ← List.take_add, Nat.add_assoc]

/-- The first of the elements that a list has from place `c` on, and the others. -/
theorem getElem?_of_take_drop {α : Type} {l rest : List α} {c n : Nat} {a : α} (h : (l.drop c).take (n + 1) = a :: rest) :
    l[c]? = some a ∧ (l.drop (c + 1)).take n = rest := by
  rw [← List.head?_drop, ← List.tail_drop]
  cases hd : l.drop c with
  | nil => simp [hd] at h
  | cons x xs =>
    rw [hd, List.take_succ_cons] at h
    obtain ⟨rfl, rfl⟩ := List.cons.inj h
    exact ⟨rfl, rfl⟩

section
variable {s : State} {b : Bool} {l : Byte}

/-- The next segment of a current page is taken (40_ogg_demuxer.md R127). -/
theorem step_segment (hq : s.hostQ = []) (hb : s.phase.busy = true) (hseq : s.seq = .assemble b) (hv : s.pageValid = true)
    (hlen : s.pg.seg.length = s.pg.nseg.toNat) (hl : s.pg.seg[s.segCursor]? = some l) :
    step s =
      if s.params.maxPacketBytes < s.pkt.length + l.toNat then
        abort { s with segCursor := s.segCursor + 1 } .capacity 1
      else .next (s.tookSegments 1 l.toNat (decide (l.toNat = 255))) := by
  have hlt : s.segCursor < s.pg.nseg.toNat := hlen ▸ (List.getElem?_eq_some_iff.1 hl).1
  have hn : s.needsPage = false := by simp [State.needsPage, hv, hlt]
  rw [step_assemble hq hb hseq, fetchSegment, hn]
  show takeSegment s = _
  rw [takeSegment, hl]
  rfl

/-- Full segments and one more are appended in order (40_ogg_demuxer.md R127). -/
theorem stepN_segments (m : Nat) : ∀ {s : State} {b : Bool}, s.hostQ = [] → s.phase.busy = true → s.seq = .assemble b →
    s.pageValid = true → s.pg.seg.length = s.pg.nseg.toNat →
    (s.pg.seg.drop s.segCursor).take (m + 1) = List.replicate m 255 ++ [l] →
    s.pkt.length + (255 * m + l.toNat) ≤ s.params.maxPacketBytes →
    stepN (m + 1) s = some (s.tookSegments (m + 1) (255 * m + l.toNat) (decide (l.toNat = 255))) := by
  induction m with
  | zero =>
    intro s b hq hb hseq hv hlen hseg hfit
    obtain ⟨hl, -⟩ := getElem?_of_take_drop hseg
    rw [stepN, step_segment hq hb hseq hv hlen hl, if_neg (by omega)]
    simp only [stepN, Nat.mul_zero, Nat.zero_add]
  | succ m ih =>
    intro s b hq hb hseq hv hlen hseg hfit
    obtain ⟨hl, hrest⟩ := getElem?_of_take_drop hseg
    have hnext : step s = .next (s.tookSegments 1 255 true) := by
      rw [step_segment hq hb hseq hv hlen hl]
      exact if_neg (show ¬ s.params.maxPacketBytes < s.pkt.length + 255 by omega)
    have hfit' : (s.tookSegments 1 255 true).pkt.length + (255 * m + l.toNat) ≤ s.params.maxPacketBytes := by
      simp only [State.tookSegments, List.length_append, List.length_take]
      omega
    rw [stepN, hnext]
    dsimp only
    rw [ih (s := s.tookSegments 1 255 true) (b := true) hq hb rfl hv hlen hrest hfit', tookSegments_tookSegments,
      Nat.add_comm 1, Nat.mul_succ, Nat.add_comm _ 255, ← Nat.add_assoc 255]

end

/-- Settles O13: a fresh packet, its last segment, its continuation, and the buffer's bound. -/
theorem packetAssembly : Obligations.PacketAssembly := by
  unfold Obligations.PacketAssembly
  refine ⟨fun s hq hb hseq => ?fresh, fun s b m l hq hb hseq hv hpage hl hseg hfit => ?last,
    fun s b m hq hb hseq hv hpage hm hseg hfit => ?continues, fun s b l hq hb hseq hv hpage hl hfull => ?capacity⟩
  case fresh =>
    rw [step_busy hq hb, fetchCore, hseq]
    rfl
  case last =>
    rw [stepN_segments m hq hb hseq hv hpage.1 hseg hfit, decide_eq_false (by omega)]
    rfl
  case continues =>
    obtain ⟨k, rfl⟩ := Nat.exists_eq_add_one_of_ne_zero hm.ne'
    have hlen := congrArg List.length hseg
    rw [List.length_drop, List.length_replicate, hpage.1] at hlen
    have hseg' : (s.pg.seg.drop s.segCursor).take (k + 1) = List.replicate k 255 ++ [255] := by
      rw [hseg, List.take_of_length_le (List.length_replicate ..).le, List.replicate_succ']
    refine ⟨_, stepN_segments k hq hb hseq hv hpage.1 hseg' hfit, rfl, ?_⟩
    have hend : s.pg.nseg.toNat ≤ s.segCursor + (k + 1) := by omega
    simp [State.needsPage, State.tookSegments, hend]
  case capacity =>
    exact ⟨_, (step_segment hq hb hseq hv hpage.1 hl).trans (if_pos hfull), ⟨rfl, rfl, rfl⟩, rfl⟩

end Sys2Proof.Machine
end

section
/-! The fields that a unit reads, by the readers of its meaning (30_encoding.md R82 to R95, 41_bitreader.md R151, R154). -/

namespace Sys2Proof.Machine

open Sys2Proof

/-! ### Fields in order -/

theorem Reader.skips_append (a b : List Nat) (r : Reader) : r.skips (a ++ b) = (r.skips a).skips b := List.foldl_append

theorem Reader.skipEach_eq_skips (w k : Nat) : ∀ r : Reader, r.skipEach w k = r.skips (List.replicate k w) := by
  induction k with
  | zero => exact fun _ => rfl
  | succ k ih => exact fun r => ih (r.skip w)

theorem Reader.discard_eq_skips {w : Nat} (hw : 1 ≤ w) (hw32 : w ≤ 32) (k : Nat) {r : Reader}
    (h : r.pos ≤ 8 * r.bytes.length) : r.discard w k = r.skips (List.replicate k w) := by
  rw [discard_eq_after hw k h, ← skipEach_eq_after hw32 k h, skipEach_eq_skips]

/-- Warnings counted before the reads stay counted. -/
theorem Reader.skips_warned (ws : List Nat) (e c : Nat) : ∀ r : Reader,
    Reader.skips ws { r with exhausted := e + r.exhausted, clamped := c + r.clamped } =
      { r.skips ws with exhausted := e + (r.skips ws).exhausted, clamped := c + (r.skips ws).clamped } := by
  induction ws with
  | nil => exact fun _ => rfl
  | cons w ws ih =>
    intro r
    rw [skips_cons, skips_cons, ← ih (r.skip w)]
    simp only [skip, readBits, avail, Nat.add_assoc]
    rfl

theorem satAdd_satAdd (w a b c : Nat) : satAdd w (satAdd w a b) c = satAdd w a (b + c) := by
  unfold satAdd
  omega

theorem WarnRec.add_add (w : WarnRec) (e c e' c' : Nat) : (w.add e c).add e' c' = w.add (e + e') (c + c') := by
  simp only [WarnRec.add, satAdd_satAdd, WarnRec.mk.injEq, and_true]
  rw [Bool.eq_iff_iff]
  simp only [Bool.or_eq_true, decide_eq_true_eq]
  cases w.any with
  | false =>
    simp only [Bool.false_eq_true, false_or]
    omega
  | true => simp only [true_or]

/-- Fields read in two runs are read in one. -/
theorem State.skips_skips (s : State) (a b : List Nat) : (s.skips a).skips b = s.skips (a ++ b) := by
  have hbytes : (s.reader.skips a).bytes = s.pkt := (Reader.skips_moves a s.reader).bytes
  have hb := Reader.skips_warned b (s.reader.skips a).exhausted (s.reader.skips a).clamped (s.skips a).reader
  have hra : { (s.skips a).reader with
      exhausted := (s.reader.skips a).exhausted + (s.skips a).reader.exhausted
      clamped := (s.reader.skips a).clamped + (s.skips a).reader.clamped } = s.reader.skips a := by
    show Reader.mk s.pkt _ _ _ = _
    rw [← hbytes]
    rfl
  rw [hra] at hb
  show (s.skips a).withReader ((s.skips a).reader.skips b) = s.withReader (s.reader.skips (a ++ b))
  rw [Reader.skips_append, hb]
  simp only [State.withReader, State.skips, WarnRec.add_add]

/-! ### Configuration units -/

/-- If no check fails up to `q`, none fails up to `p`, and fields of the widths `ws` are read from `p` to `q`. -/
def Part.Read {α : Type} (p q : Part α) (ws : List Nat) : Prop := q.err = none → p.err = none ∧ q.rd = p.rd.skips ws

section
variable {α β : Type} {p q q' : Part α} {ws ws' : List Nat}

theorem Part.Read.refl (p : Part α) : p.Read p [] := fun h => ⟨h, rfl⟩

theorem Part.Read.trans (h : p.Read q ws) (h' : q.Read q' ws') : p.Read q' (ws ++ ws') := fun he => by
  obtain ⟨hq, hrd'⟩ := h' he
  obtain ⟨hp, hrd⟩ := h hq
  exact ⟨hp, by rw [hrd', hrd, Reader.skips_append]⟩

theorem Part.Read.next_of {f : Reader → α → Part α}
    (h : p.err = none → (f p.rd p.val).err = none → (f p.rd p.val).rd = p.rd.skips ws) : p.Read (p.next f) ws := fun he => by
  cases hp : p.err with
  | some c =>
    rw [next_of_err hp, hp] at he
    cases he
  | none =>
    rw [next_of_none hp] at he ⊢
    exact ⟨rfl, h hp he⟩

theorem Part.Read.next {f : Reader → α → Part α} (h : ∀ r a, (f r a).err = none → (f r a).rd = r.skips ws) :
    p.Read (p.next f) ws := .next_of fun _ he => h _ _ he

theorem Part.Read.field (w : Nat) (write : α → α) (check : Option ErrCode) : p.Read (p.field w write check) [w] :=
  .next fun _ _ _ => rfl

theorem Part.Read.foldl {f : Part α → β → Part α} {g : β → List Nat} (h : ∀ p b, Part.Read p (f p b) (g b)) (l : List β) :
    ∀ p : Part α, p.Read (l.foldl f p) (l.flatMap g) := by
  induction l with
  | nil => exact .refl
  | cons b l ih => exact fun p => (h p b).trans (ih _)

end

theorem flatMap_replicate_const {α : Type} (k w : Nat) (l : List α) :
    l.flatMap (fun _ => List.replicate k w) = List.replicate (k * l.length) w := by
  induction l with
  | nil => rfl
  | cons a l ih => rw [List.flatMap_cons, ih, List.replicate_append_replicate, List.length_cons, Nat.mul_succ, Nat.add_comm]

/-- Equal fields for each element of a list. -/
theorem Part.Read.foldl_const {α β : Type} {f : Part α → β → Part α} {k w : Nat}
    (h : ∀ p b, Part.Read p (f p b) (List.replicate k w)) (l : List β) (p : Part α) :
    p.Read (l.foldl f p) (List.replicate (k * l.length) w) := by
  rw [← flatMap_replicate_const k w l]
  exact .foldl h l p

/-! ### Floors (44_floor1.md R250 to R254) -/

theorem floorPartClasses_read (cs : List (BitVec 4)) (p : Part FloorConfig) :
    p.Read (floorPartClasses cs p) (5 :: List.replicate cs.length 4) :=
  .next fun _ _ _ => Reader.skipEach_eq_skips 4 cs.length _

theorem floorMaster_read (n : Nat) (m : Option (BitVec 8)) (p : Part FloorConfig) :
    p.Read (floorMaster n m p) (if m.isSome then [8] else []) := by
  cases m with
  | none => exact .refl p
  | some v => exact .field 8 _ _

theorem floorClass_read (n : Nat) (p : Part FloorConfig) (c : ClassFields) :
    p.Read (floorClass n p c) ([3, 2] ++ (if c.master.isSome then [8] else []) ++ List.replicate c.books.length 8) := by
  have hbooks := Part.Read.foldl_const (f := floorSubBook n) (k := 1) (fun _ _ => .field 8 _ _) c.books
  rw [Nat.one_mul] at hbooks
  exact ((Part.Read.next fun _ _ _ => rfl).trans (floorMaster_read n c.master _)).trans (hbooks _)

theorem floorRangeAndXs_read (ff : FloorFields) (p : Part FloorConfig) :
    p.Read (floorRangeAndXs ff p) ([2, 4] ++ List.replicate ff.xs.length ff.rangebits.toNat) :=
  .next fun _ _ _ => (Reader.skipEach_eq_skips _ _ _).trans (Reader.skips_append _ _ _).symm

theorem floorNeighborCheck_read (p : Part FloorConfig) : p.Read (floorNeighborCheck p) [] := .next fun _ _ _ => rfl

/-- A floor whose checks pass is read by its fields. -/
theorem decodeFloor_read {n : Nat} {ff : FloorFields} {r : Reader} (h : (decodeFloor n ff r).err = none) (c : Ctx) :
    (decodeFloor n ff r).rd = r.skips (fieldWidths c (.floor1 ff)) := by
  have hread := (floorPartClasses_read ff.partClass { rd := r.skip 16, val := .fresh, err := none }).trans
    (.foldl (floorClass_read n) ff.classes _) |>.trans (floorRangeAndXs_read ff _) |>.trans (floorNeighborCheck_read _)
  rw [decodeFloor, (hread h).2]
  simp [fieldWidths]

/-! ### Residues (45_residue.md R280 to R282) -/

theorem residueCascade_read (p : Part ResidueConfig) (c : CascadeFields) :
    p.Read (residueCascade p c) (if c.high.isSome then [3, 1, 5] else [3, 1]) :=
  .next fun r v _ => by
    dsimp only
    split <;> rfl

theorem residueHead_read (n : Nat) (ff : ResidueFields) (p : Part ResidueConfig) :
    p.Read (residueHead n ff p) ([24, 24, 24, 6] ++ [8]) :=
  (Part.Read.next (ws := [24, 24, 24, 6]) fun _ _ _ => rfl).trans (.field 8 _ _)

/-- A row has one book for each set bit of its cascade (45_residue.md R282). -/
theorem residueRow_read (n cascade : Nat) (passes : List Nat) : ∀ (bs : List (BitVec 8)) (p : Part ResidueConfig),
    bs.length = total (passes.map (fun pass => if cascade.testBit pass then 1 else 0)) →
    p.Read (residueRow n cascade passes bs p) (List.replicate bs.length 8) := by
  induction passes with
  | nil =>
    intro bs p h
    rw [List.length_eq_zero_iff.1 h]
    exact .refl p
  | cons pass passes ih =>
    intro bs p h
    rw [List.map_cons, total] at h
    cases hbit : cascade.testBit pass with
    | false =>
      simp only [hbit, Bool.false_eq_true, if_false, Nat.zero_add] at h
      have hrow : residueRow n cascade (pass :: passes) bs p =
          residueRow n cascade passes bs (p.next fun r v => { rd := r, val := pushBook none v, err := none }) := by
        simp only [residueRow, hbit]
      rw [hrow]
      exact (Part.Read.next (ws := []) fun _ _ _ => rfl).trans (ih bs _ h)
    | true =>
      simp only [hbit, if_true] at h
      cases bs with
      | nil => rw [List.length_nil] at h; omega
      | cons b more =>
        rw [List.length_cons] at h ⊢
        simp only [residueRow, hbit]
        exact (Part.Read.field 8 _ _).trans (ih more _ (by omega))

theorem residueBooks_read (n : Nat) (cs : List Nat) : ∀ (rows : List (List (BitVec 8))) (p : Part ResidueConfig),
    rows.map List.length = cs.map passCount →
    p.Read (residueBooks n cs rows p) (rows.flatMap (fun bs => List.replicate bs.length 8)) := by
  induction cs with
  | nil =>
    intro rows p h
    rw [List.map_eq_nil_iff.1 h]
    exact .refl p
  | cons c cs ih =>
    intro rows p h
    cases rows with
    | nil => cases h
    | cons row rows =>
      obtain ⟨hrow, hrows⟩ := List.cons.inj h
      exact ((Part.Read.next (ws := []) fun _ _ _ => rfl).trans (residueRow_read n c (List.range 8) row _ hrow)).trans
        (ih rows _ hrows)

theorem decodeResidue_read {t : ResType} {n : Nat} {ff : ResidueFields} {r : Reader} (hwf : ff.wf = true)
    (h : (decodeResidue t n ff r).err = none) :
    (decodeResidue t n ff r).rd = r.skips (fieldWidths.residueWidths ff) := by
  have hbooks := residueBooks_read n (ff.cascade.map cascadeValue) ff.books
    (ff.cascade.foldl residueCascade (residueHead n ff { rd := r.skip 16, val := .fresh t, err := none }))
    (by rw [(ResidueFields.wf_iff.1 hwf).2, List.map_map]; rfl)
  have hread := (residueHead_read n ff { rd := r.skip 16, val := .fresh t, err := none }).trans
    (.foldl residueCascade_read ff.cascade _) |>.trans hbooks
  rw [decodeResidue, (hread h).2]
  simp [fieldWidths.residueWidths]

/-! ### Mappings (42_headers.md R178 to R181) -/

theorem mapSubmaps_read (v : Option (BitVec 4)) (p : Part MappingConfig) :
    p.Read (mapSubmaps v p) (if v.isSome then [1, 4] else [1]) :=
  .next fun r m _ => by
    dsimp only
    split <;> rfl

theorem mapStep_read (channels : Nat) (p : Part MappingConfig) (st : Nat × Nat) :
    p.Read (mapStep channels p st) (List.replicate 2 (couplingWidth channels)) :=
  .next fun r m h => by
    dsimp only at h ⊢
    split_ifs at h ⊢
    rfl

/-- The fields of the coupling section. -/
def couplingWidths (channels : Nat) : Option (List (Nat × Nat)) → List Nat
  | none => [1]
  | some steps => [1, 8] ++ List.replicate (2 * steps.length) (couplingWidth channels)

theorem mapCoupling_read (channels : Nat) (c : Option (List (Nat × Nat))) (p : Part MappingConfig) :
    p.Read (mapCoupling channels c p) (couplingWidths channels c) := by
  cases c with
  | none => exact .next fun _ _ _ => rfl
  | some steps => exact (Part.Read.next fun _ _ _ => rfl).trans (.foldl_const (mapStep_read channels) steps _)

/-- The coupling section leaves the submap count. -/
theorem mapStep_submaps (channels : Nat) (p : Part MappingConfig) (st : Nat × Nat) :
    (mapStep channels p st).val.submaps = p.val.submaps := by
  unfold mapStep Part.next
  split
  · rfl
  · dsimp only
    split <;> rfl

theorem foldl_mapStep_submaps (channels : Nat) (steps : List (Nat × Nat)) : ∀ p : Part MappingConfig,
    (steps.foldl (mapStep channels) p).val.submaps = p.val.submaps := by
  induction steps with
  | nil => exact fun _ => rfl
  | cons st steps ih => exact fun p => (ih _).trans (mapStep_submaps channels p st)

theorem mapCoupling_submaps (channels : Nat) (c : Option (List (Nat × Nat))) (p : Part MappingConfig) :
    (mapCoupling channels c p).val.submaps = p.val.submaps := by
  have hnext (w : Reader → Reader) (k : Nat) :
      (p.next fun r m => { rd := w r, val := { m with couplingSteps := k }, err := none }).val.submaps = p.val.submaps := by
    unfold Part.next
    split <;> rfl
  cases c with
  | none => exact hnext (Reader.skip 1) 0
  | some steps => exact (foldl_mapStep_submaps channels steps _).trans (hnext (Reader.skips [1, 8]) _)

/-- A field that is only checked writes nothing. -/
theorem field_id_val {α : Type} (p : Part α) (w : Nat) (check : Option ErrCode) : (p.field w id check).val = p.val := by
  unfold Part.field Part.next
  split <;> rfl

/-- The submap of each channel is read when there are several (42_headers.md R180). -/
theorem mapMux_read (channels : Nat) (reserved : BitVec 2) {mux : List (BitVec 4)} {p : Part MappingConfig}
    (h : ¬ 1 < p.val.submaps → mux = []) :
    p.Read (mapMux channels reserved mux p) ([2] ++ List.replicate mux.length 4) := by
  refine (Part.Read.field 2 id (checkThat (reserved == 0) .mapReserved)).trans (.next_of fun _ he => ?_)
  rw [field_id_val] at he ⊢
  by_cases hm : 1 < p.val.submaps
  · rw [if_pos hm] at he ⊢
    have hread := Part.Read.foldl_const (k := 1) (w := 4) (fun _ _ => .field 4 _ _) mux _ he
    rw [hread.2, Nat.one_mul]
  · rw [if_neg hm, h hm]
    rfl

theorem mapSub_read (n m : Nat) (p : Part MappingConfig) (sm : SubmapFields) :
    p.Read (mapSub n m p sm) (List.replicate 3 8) :=
  ((Part.Read.field 8 _ _).trans (.field 8 _ _) |>.trans (.field 8 _ _)).trans (.next (ws := []) fun _ _ _ => rfl)

theorem decodeMapping_read {channels n m : Nat} {f : MapFields} {r : Reader} (hwf : f.wf channels = true)
    (h : (decodeMapping channels n m f r).err = none) (k : Nat) :
    (decodeMapping channels n m f r).rd = r.skips (fieldWidths (.mapping k channels) (.map0 f)) := by
  obtain ⟨-, hmux, -⟩ := MapFields.wf_iff.1 hwf
  have hcoupled := (mapSubmaps_read f.submapsM1 { rd := r.skip 16, val := .fresh, err := none }).trans
    (mapCoupling_read channels f.coupling _)
  have hsubmaps : (mapCoupling channels f.coupling
      (mapSubmaps f.submapsM1 { rd := r.skip 16, val := .fresh, err := none })).val.submaps = submapCount f.submapsM1 :=
    mapCoupling_submaps _ _ _
  have hread := (hcoupled.trans (mapMux_read channels f.reserved (mux := f.mux) fun hm => ?_)).trans
    (.foldl_const (mapSub_read n m) f.subs _)
  · rw [decodeMapping, (hread h).2]
    cases hc : f.coupling <;> simp [fieldWidths, couplingWidths, couplingWidth, hc]
  · rw [hsubmaps] at hm
    rw [if_neg hm] at hmux
    exact List.length_eq_zero_iff.1 hmux

end Sys2Proof.Machine
end

section
/-! The fields that a unit of fields only reads add up to its encoding (30_encoding.md R82 to R95). -/

namespace Sys2Proof.Machine

open Sys2Proof

/-! ### The run counts of an ordered length list (43_codebook.md R214) -/

/-- The widths of the run counts, `cur` entries being assigned before them. -/
def countWidths (entries : Nat) : Nat → List Nat → List Nat
  | _, [] => []
  | cur, c :: cs => countWidth entries cur :: countWidths entries (cur + c) cs

theorem map_range_countWidth (entries : Nat) (counts : List Nat) : ∀ cur : Nat,
    (List.range counts.length).map (fun k => ilog (entries - (cur + total (counts.take k)))) =
      countWidths entries cur counts := by
  induction counts with
  | nil => exact fun _ => rfl
  | cons c cs ih =>
    intro cur
    rw [List.length_cons, List.range_succ_eq_map, List.map_cons, List.map_map, countWidths, ← ih (cur + c)]
    simp only [Function.comp_def, List.take_succ_cons, total, Nat.add_assoc]
    rfl

theorem total_countWidths (entries : Nat) (counts : List Nat) : ∀ cur : Nat,
    total (countWidths entries cur counts) = (encCounts entries cur counts).length := by
  induction counts with
  | nil => exact fun _ => rfl
  | cons c cs ih =>
    intro cur
    rw [countWidths, total, ih, encCounts, List.length_append, bitsOf_length]

theorem countWidths_le {entries : Nat} (h : entries < 2 ^ 24) (counts : List Nat) : ∀ cur : Nat,
    ∀ w ∈ countWidths entries cur counts, w ≤ 32 := by
  induction counts with
  | nil => exact fun _ _ hw => (List.not_mem_nil hw).elim
  | cons c cs ih =>
    exact fun cur => List.forall_mem_cons.2
      ⟨(ilog_le_of_lt (n := 24) (by omega)).trans (by decide), ih _⟩

/-- Run counts that are as many as the list needs are all read, when no check fails. -/
theorem orderedLoop_rd (entries : Nat) (counts : List Nat) : ∀ (fuel l : Nat) (r : Reader) (len : List (Option Nat)),
    l + fuel = 33 → orderedWf entries fuel len.length counts = true → (orderedLoop entries counts l r len).err = none →
    (orderedLoop entries counts l r len).rd = r.skips (countWidths entries len.length counts) := by
  induction counts with
  | nil => exact fun _ _ _ _ _ _ _ => rfl
  | cons c cs ih =>
    intro fuel l r len hl hwf he
    cases fuel with
    | zero => cases hwf
    | succ fuel =>
      obtain ⟨hcur, -, hcs⟩ := orderedWf_cons.1 hwf
      rw [orderedLoop, if_neg (Nat.not_le.2 hcur), if_neg (by omega)] at he ⊢
      dsimp only at he ⊢
      by_cases hrun : entries < len.length + c
      · rw [if_pos hrun] at he
        cases he
      · rw [if_neg hrun] at hcs he ⊢
        have hlen : (len ++ List.replicate c (some l)).length = len.length + c := by simp
        rw [ih fuel (l + 1) _ _ (by omega) (by rw [hlen]; exact hcs) he, hlen]
        rfl

/-! ### The other lists -/

theorem sparseReads_eq_skips (lens : List (Option (BitVec 5))) : ∀ r : Reader,
    sparseReads lens r = r.skips (lens.flatMap (fun v => if v.isSome then [1, 5] else [1])) := by
  induction lens with
  | nil => exact fun _ => rfl
  | cons v lens ih =>
    intro r
    rw [List.flatMap_cons, Reader.skips_append, ← ih]
    cases v <;> rfl

/-! ### The comment header (42_headers.md R175) -/

section
variable {r : Reader}

theorem Reader.skips_bound (h : r.pos ≤ 8 * r.bytes.length) (ws : List Nat) :
    (r.skips ws).pos ≤ 8 * (r.skips ws).bytes.length := by
  rw [(skips_moves ws r).bytes]
  exact (skips_moves ws r).bound h

theorem Reader.skips_skip (ws : List Nat) (w : Nat) : (r.skips ws).skip w = r.skips (ws ++ [w]) := (skips_append ws [w] r).symm

theorem Reader.skips_discard (h : r.pos ≤ 8 * r.bytes.length) (ws : List Nat) {w : Nat} (hw : 1 ≤ w) (hw32 : w ≤ 32) (k : Nat) :
    (r.skips ws).discard w k = r.skips (ws ++ List.replicate k w) := by
  rw [discard_eq_skips hw hw32 k (skips_bound h ws), skips_append]

theorem commentReads_eq_skips (h : r.pos ≤ 8 * r.bytes.length) (c : Comment) :
    commentReads c r = r.skips (32 :: List.replicate c.len.toNat 8) :=
  Reader.discard_eq_skips (by decide) (by decide) _ ((Reader.skip_moves 32 r).bound h)

theorem foldl_commentReads_eq_skips (l : List Comment) : ∀ {r : Reader}, r.pos ≤ 8 * r.bytes.length →
    l.foldl (fun r c => commentReads c r) r = r.skips (l.flatMap (fun c => 32 :: List.replicate c.len.toNat 8)) := by
  induction l with
  | nil => exact fun _ => rfl
  | cons c l ih =>
    intro r h
    rw [List.foldl_cons, commentReads_eq_skips h c, List.flatMap_cons, Reader.skips_append, ih (Reader.skips_bound h _)]

/-- The comment header is read by its fields when the packet holds all its comments (42_headers.md R175). -/
theorem commentHdrReads_eq_skips (h : r.pos ≤ 8 * r.bytes.length) {f : CommentFields} (hwf : f.wf = true) (c : Ctx) :
    (commentHdrReads f r).skip 1 = r.skips (fieldWidths c (.commentHdr f)) := by
  have hcount : f.count.toNat - f.comments.length = 0 := by
    have := (CommentFields.wf_iff.1 hwf).2.1
    omega
  unfold commentHdrReads
  dsimp only
  rw [hcount, Reader.skips_skip, Reader.skips_discard h _ (by decide) (by decide), Reader.skips_skip,
    foldl_commentReads_eq_skips _ (Reader.skips_bound h _), ← Reader.skips_append,
    Reader.skips_discard h _ (by decide) (by decide), Reader.skips_skip]
  simp [fieldWidths, prefixWidths]

end

/-! ### The state after a unit -/

/-- The cursor and the warnings of `t` are those of `s` after fields of the widths `ws`. -/
def State.Skipped (s t : State) (ws : List Nat) : Prop :=
  t.pktBitpos = (s.skips ws).pktBitpos ∧ t.warn = (s.skips ws).warn

section
variable {s t : State}

theorem skipped_of_withReader {r : Reader} {ws : List Nat} (hr : r = s.reader.skips ws)
    (ht : t.pktBitpos = (s.withReader r).pktBitpos ∧ t.warn = (s.withReader r).warn) : s.Skipped t ws := by
  subst hr
  exact ht

theorem execIdHdr_skipped {f : IdFields} (h : execIdHdr f s = .next t) (ht : t.phase ≠ .error) (c : Ctx) :
    s.Skipped t (fieldWidths c (.idHdr f)) := by
  unfold execIdHdr at h
  simp only [State.skips_skips] at h
  split at h
  · cases h
    exact absurd rfl ht
  split at h
  · cases h
    exact absurd rfl ht
  split at h
  · cases h
    exact absurd rfl ht
  split at h
  · cases h
    exact absurd rfl ht
  split at h
  · cases h
    exact absurd rfl ht
  obtain ⟨-, rfl⟩ := completePacket_next.1 h
  exact ⟨rfl, rfl⟩

theorem execCommentHdr_skipped {f : CommentFields} (hi : s.Inv) (hwf : f.wf = true) (h : execCommentHdr f s = .next t)
    (ht : t.phase ≠ .error) (c : Ctx) : s.Skipped t (fieldWidths c (.commentHdr f)) := by
  refine skipped_of_withReader (commentHdrReads_eq_skips (reader_bound hi) hwf c) ?_
  unfold execCommentHdr at h
  split at h
  · cases h
    exact absurd rfl ht
  · obtain ⟨-, rfl⟩ := completePacket_next.1 h
    exact ⟨rfl, rfl⟩

theorem execCbLenDense_skipped {lens : List (BitVec 5)} (h : execCbLenDense lens s = .next t) (c : Ctx) :
    s.Skipped t (fieldWidths c (.cbLenDense lens)) := by
  refine skipped_of_withReader (r := (s.reader.skips [1, 1]).skipEach 5 lens.length) ?_ ?_
  · rw [Reader.skipEach_eq_skips, ← Reader.skips_append]
    rfl
  · cases h
    exact ⟨rfl, rfl⟩

theorem execCbLenSparse_skipped {lens : List (Option (BitVec 5))} (h : execCbLenSparse lens s = .next t) (c : Ctx) :
    s.Skipped t (fieldWidths c (.cbLenSparse lens)) := by
  refine skipped_of_withReader (r := sparseReads lens (s.reader.skips [1, 1])) ?_ ?_
  · rw [sparseReads_eq_skips, ← Reader.skips_append]
    rfl
  · cases h
    exact ⟨rfl, rfl⟩

theorem fieldWidths_cbLenOrdered (entries : Nat) (initM1 : BitVec 5) (counts : List Nat) :
    fieldWidths (.lengths entries) (.cbLenOrdered initM1 counts) = [1, 5] ++ countWidths entries 0 counts := by
  rw [← map_range_countWidth]
  simp [fieldWidths]

theorem execCbLenOrdered_skipped {b : Codebook} (hb : s.book = some b) {initM1 : BitVec 5} {counts : List Nat}
    (hwf : orderedWf b.entries (32 - initM1.toNat) 0 counts = true) (h : execCbLenOrdered initM1 counts s = .next t)
    (ht : t.phase ≠ .error) : s.Skipped t (fieldWidths (.lengths b.entries) (.cbLenOrdered initM1 counts)) := by
  unfold execCbLenOrdered at h
  rw [hb] at h
  dsimp only at h
  split at h
  · cases h
    exact absurd rfl ht
  · have hinit := initM1.isLt
    have hrd := orderedLoop_rd b.entries counts (32 - initM1.toNat) (plusOne initM1) (s.reader.skips [1, 5]) []
      (by rw [plusOne]; omega) hwf ‹_›
    rw [← Reader.skips_append] at hrd
    rw [fieldWidths_cbLenOrdered]
    refine skipped_of_withReader hrd ?_
    cases h
    exact ⟨rfl, rfl⟩

theorem lookupVq_skipped {b : Codebook} (hb : s.book = some b) {ty : Nat} {f : VqFields} (h : lookupVq ty f s = .next t)
    (ht : t.phase ≠ .error) :
    s.Skipped t ([4, 32, 32, 4, 1] ++ List.replicate f.mult.length (f.valueBitsM1.toNat + 1)) := by
  unfold lookupVq at h
  rw [hb] at h
  dsimp only at h
  split at h
  · cases h
    exact absurd rfl ht
  split at h
  · cases h
    exact absurd rfl ht
  refine skipped_of_withReader ((Reader.skipEach_eq_skips _ _ _).trans (Reader.skips_append _ _ _).symm) ?_
  cases h
  exact ⟨rfl, rfl⟩

theorem execFloor1_skipped {f : FloorFields} (h : execFloor1 f s = .next t) (ht : t.phase ≠ .error) (c : Ctx) :
    s.Skipped t (fieldWidths c (.floor1 f)) := by
  unfold execFloor1 at h
  dsimp only at h
  split at h
  · cases h
    exact absurd rfl ht
  · refine skipped_of_withReader (decodeFloor_read ‹_› c) ?_
    cases h
    exact ⟨rfl, rfl⟩

theorem residueSetup_skipped {ty : ResType} {f : ResidueFields} (hwf : f.wf = true) (h : residueSetup ty f s = .next t)
    (ht : t.phase ≠ .error) : s.Skipped t (fieldWidths.residueWidths f) := by
  unfold residueSetup at h
  dsimp only at h
  split at h
  · cases h
    exact absurd rfl ht
  · refine skipped_of_withReader (decodeResidue_read hwf ‹_›) ?_
    cases h
    exact ⟨rfl, rfl⟩

theorem execMap0_skipped {f : MapFields} (hwf : f.wf s.cfg.channels = true) (h : execMap0 f s = .next t)
    (ht : t.phase ≠ .error) (k : Nat) : s.Skipped t (fieldWidths (.mapping k s.cfg.channels) (.map0 f)) := by
  unfold execMap0 at h
  dsimp only at h
  split at h
  · cases h
    exact absurd rfl ht
  · refine skipped_of_withReader (decodeMapping_read hwf ‹_› k) ?_
    cases h
    exact ⟨rfl, rfl⟩

theorem execMode_skipped {blockflag : Bool} {mapping : BitVec 8} (h : execMode blockflag mapping s = .next t) :
    s.Skipped t [1, 16, 16, 8] := by
  unfold execMode at h
  dsimp only at h
  split at h
  · cases h
    exact ⟨rfl, rfl⟩
  · cases h
    exact ⟨rfl, rfl⟩

theorem execAudioPacket_skipped {mode : Nat} (h : execAudioPacket mode s = .next t) :
    s.Skipped t (fieldWidths (.audio s.nModes) (.audioPacket mode)) := by
  unfold execAudioPacket at h
  dsimp only at h
  split at h
  · cases h
    exact ⟨rfl, rfl⟩
  split at h
  · cases h
  · cases h
    exact ⟨rfl, rfl⟩

/-- A unit of fields only is read by them. -/
theorem exec_skipped {c : Ctx} {i : Instr} (hi : s.Inv) (hs : s.sizes c) (hwf : i.WellFormed c) (hf : fieldsOnly i = true)
    (h : exec i s = .next t) (ht : t.phase ≠ .error) : s.Skipped t (fieldWidths c i) := by
  cases hwf with
  | oggPage | floor1PayloadPresent | res0Payload | res1Payload | res2Payload => cases hf
  | idHdr f => exact execIdHdr_skipped h ht _
  | commentHdr f hwf => exact execCommentHdr_skipped hi hwf h ht _
  | cbLenDense lens => exact execCbLenDense_skipped h _
  | cbLenSparse lens => exact execCbLenSparse_skipped h _
  | cbLenOrdered n initM1 counts hwf =>
    obtain ⟨b, hb, rfl⟩ := hs
    exact execCbLenOrdered_skipped hb hwf h ht
  | cbLookup1 _ n d _ f hwf | cbLookup2 _ n d _ f hwf =>
    obtain ⟨b, hb, -⟩ := hs
    exact lookupVq_skipped hb h ht
  | floor1 _ f => exact execFloor1_skipped h ht _
  | res0 _ f hwf | res1 _ f hwf | res2 _ f hwf => exact residueSetup_skipped hwf h ht
  | map0 k channels f hwf =>
    cases hs
    exact execMap0_skipped hwf h ht k
  | mode => exact execMode_skipped h
  | audioPacket modes mode =>
    cases hs
    exact execAudioPacket_skipped h
  | setupHdr | codebook | cbLookup0 | timeEntry | windowFlags | floor1PayloadUnused =>
    cases h
    exact ⟨rfl, rfl⟩

end

end Sys2Proof.Machine
end

section
/-! A unit's length in bits, and the bound on its fields (30_encoding.md R82 to R95, 41_bitreader.md R152). -/

namespace Sys2Proof.Machine

open Sys2Proof

/-! ### No field is wider than 32 bits -/

/-- Whether fields of these widths are read without a clamp (41_bitreader.md R152). -/
def Narrow (ws : List Nat) : Prop := ∀ w ∈ ws, w ≤ 32

theorem Narrow.append {a b : List Nat} (ha : Narrow a) (hb : Narrow b) : Narrow (a ++ b) := List.forall_mem_append.2 ⟨ha, hb⟩

theorem Narrow.replicate {w : Nat} (hw : w ≤ 32) (k : Nat) : Narrow (List.replicate k w) :=
  fun _ h => (List.eq_of_mem_replicate h).trans_le hw

theorem Narrow.flatMap {α : Type} {l : List α} {g : α → List Nat} (h : ∀ a, Narrow (g a)) : Narrow (l.flatMap g) :=
  fun w hw => by
    obtain ⟨a, -, ha⟩ := List.mem_flatMap.1 hw
    exact h a w ha

theorem Narrow.ite {p : Prop} [Decidable p] {a b : List Nat} (ha : Narrow a) (hb : Narrow b) : Narrow (if p then a else b) := by
  split
  · exact ha
  · exact hb

theorem narrow_of_decide {ws : List Nat} (h : ws.all (fun w => decide (w ≤ 32)) = true) : Narrow ws := by
  simpa [Narrow] using h

theorem narrow_vq (f : VqFields) :
    Narrow ([4, 32, 32, 4, 1] ++ List.replicate f.mult.length (f.valueBitsM1.toNat + 1)) :=
  (narrow_of_decide rfl).append (.replicate (by have := f.valueBitsM1.isLt; omega) _)

theorem narrow_residue (f : ResidueFields) : Narrow (fieldWidths.residueWidths f) :=
  (narrow_of_decide rfl).append (.flatMap fun _ => .ite (narrow_of_decide rfl) (narrow_of_decide rfl))
    |>.append (.flatMap fun _ => .replicate (by decide) _)

/-- No computed width passes 32 (41_bitreader.md R152). -/
theorem fieldWidths_narrow {s : State} {c : Ctx} {i : Instr} (hu : s.Unclamped) (hs : s.sizes c) (hwf : i.WellFormed c)
    (hf : fieldsOnly i = true) : Narrow (fieldWidths c i) := by
  cases hwf with
  | oggPage | floor1PayloadPresent | res0Payload | res1Payload | res2Payload => cases hf
  | commentHdr f =>
    exact (narrow_of_decide rfl).append (narrow_of_decide rfl) |>.append (.replicate (by decide) _)
      |>.append (narrow_of_decide rfl)
      |>.append (.flatMap fun m => .append (a := [32]) (narrow_of_decide rfl) (.replicate (by decide) _))
      |>.append (narrow_of_decide rfl)
  | cbLenDense lens => exact (narrow_of_decide rfl).append (.replicate (by decide) _)
  | cbLenSparse lens =>
    exact (narrow_of_decide rfl).append (.flatMap fun _ => .ite (narrow_of_decide rfl) (narrow_of_decide rfl))
  | cbLenOrdered n initM1 counts =>
    obtain ⟨b, hb, rfl⟩ := hs
    obtain ⟨books, hbooks⟩ := codebooks_of_book hb
    rw [fieldWidths_cbLenOrdered]
    exact (narrow_of_decide rfl).append (countWidths_le (hu.entries b (by simp [hbooks])) counts 0)
  | cbLookup1 _ _ _ _ f => exact narrow_vq f
  | cbLookup2 _ _ _ _ f => exact narrow_vq f
  | floor1 _ f =>
    exact (narrow_of_decide rfl).append (.replicate (by decide) _)
      |>.append (.flatMap fun _ => (narrow_of_decide rfl).append (.ite (narrow_of_decide rfl) (narrow_of_decide rfl))
        |>.append (.replicate (by decide) _))
      |>.append (narrow_of_decide rfl) |>.append (.replicate (by have := f.rangebits.isLt; omega) _)
  | res0 _ f | res1 _ f | res2 _ f => exact narrow_residue f
  | map0 k channels f =>
    cases hs
    have hw : ilog (s.cfg.channels - 1) ≤ 8 := ilog_le_of_lt (by have := hu.channels; omega)
    have hcoupling : Narrow (couplingWidths s.cfg.channels f.coupling) := by
      cases f.coupling with
      | none => exact narrow_of_decide rfl
      | some steps => exact (narrow_of_decide rfl).append (.replicate (hw.trans (by decide)) _)
    have hread := (narrow_of_decide (ws := [16]) rfl).append
      (.ite (p := f.submapsM1.isSome = true) (narrow_of_decide (ws := [1, 4]) rfl) (narrow_of_decide (ws := [1]) rfl))
      |>.append hcoupling |>.append (narrow_of_decide (ws := [2]) rfl) |>.append (.replicate (w := 4) (by decide) f.mux.length)
      |>.append (.replicate (w := 8) (by decide) (3 * f.subs.length))
    cases hc : f.coupling <;> simpa [fieldWidths, couplingWidths, couplingWidth, hc] using hread
  | audioPacket modes mode =>
    cases hs
    exact modeWidth_le hu
  | idHdr | setupHdr | codebook | cbLookup0 | timeEntry | mode | windowFlags | floor1PayloadUnused =>
    exact narrow_of_decide rfl

/-! ### The fields add up to the encoding -/

theorem total_flatMap {α : Type} {g : α → List Nat} {enc : α → List Bool} {l : List α}
    (h : ∀ a ∈ l, total (g a) = (enc a).length) : total (l.flatMap g) = (l.flatMap enc).length := by
  induction l with
  | nil => rfl
  | cons a l ih =>
    obtain ⟨ha, hl⟩ := List.forall_mem_cons.1 h
    rw [List.flatMap_cons, total_append, List.flatMap_cons, List.length_append, ha, ih hl]

theorem encPrefix_length (t : Nat) : (encPrefix t).length = 56 := by simp [encPrefix, magicBytes]

/-- Equal fields take their width for each. -/
theorem length_flatMap_encBv {n : Nat} (l : List (BitVec n)) : (l.flatMap encBv).length = n * l.length := by
  simp [List.length_flatMap, Nat.mul_comm]

theorem length_flatMap_bitsOf (n : Nat) (l : List Nat) : (l.flatMap (bitsOf n)).length = n * l.length := by
  simp [List.length_flatMap, Nat.mul_comm]

theorem total_vq (f : VqFields) (t : Nat) :
    total ([4, 32, 32, 4, 1] ++ List.replicate f.mult.length (f.valueBitsM1.toNat + 1)) =
      (bitsOf 4 t ++ encVqFields f).length := by
  simp only [total_append, total, total_replicate, encVqFields, List.length_append, bitsOf_length, encBv_length,
    length_flatMap_bitsOf, plusOne, List.length_singleton]
  omega

theorem total_residue (f : ResidueFields) (t : Nat) :
    total (fieldWidths.residueWidths f) = (bitsOf 16 t ++ encResidueFields f).length := by
  have hcascade : total (f.cascade.flatMap (fun k => if k.high.isSome then [3, 1, 5] else [3, 1])) =
      (f.cascade.flatMap (fun c => encBv c.low ++ encOption 5 c.high)).length :=
    total_flatMap fun c _ => by cases c.high <;> simp [encOption, total]
  have hbooks : total (f.books.flatMap (fun bs => List.replicate bs.length 8)) =
      (f.books.flatMap (fun bs => bs.flatMap encBv)).length :=
    total_flatMap fun bs _ => by rw [total_replicate, length_flatMap_encBv]
  simp only [fieldWidths.residueWidths, total_append, hcascade, hbooks, total, encResidueFields, List.length_append,
    bitsOf_length, encBv_length]
  omega

theorem total_floor (f : FloorFields) (c : Ctx) :
    total (fieldWidths c (.floor1 f)) = (bitsOf 16 1 ++ encFloorFields f).length := by
  have hclasses : total (f.classes.flatMap fun k =>
      [3, 2] ++ (if k.master.isSome then [8] else []) ++ List.replicate k.books.length 8) =
        (f.classes.flatMap encClass).length :=
    total_flatMap fun k _ => by
      simp only [encClass, total_append, total, total_replicate, List.length_append, encBv_length, length_flatMap_encBv]
      cases k.master <;> simp [total]
  simp only [fieldWidths, total_append, hclasses, total, total_replicate, encFloorFields, List.length_append,
    bitsOf_length, encBv_length, length_flatMap_encBv, length_flatMap_bitsOf]
  omega

theorem total_comment (f : CommentFields) (hwf : f.wf = true) (c : Ctx) :
    total (fieldWidths c (.commentHdr f)) = (encPrefix 3 ++ encCommentFields f).length := by
  obtain ⟨hv, -, hc⟩ := CommentFields.wf_iff.1 hwf
  have hcomments : total (f.comments.flatMap (fun m => 32 :: List.replicate m.len.toNat 8)) =
      (f.comments.flatMap (fun c => encBv c.len ++ bitsOfBytes c.bytes)).length :=
    total_flatMap fun m hm => by
      rw [total, total_replicate, List.length_append, encBv_length, bitsOfBytes_length, hc m hm]
  simp only [fieldWidths, total_append, hcomments, total, total_replicate, encPrefix_length, encCommentFields,
    List.length_append, encBv_length, bitsOfBytes_length, hv, List.length_singleton]
  omega

theorem total_mapping (f : MapFields) (k channels : Nat) :
    total (fieldWidths (.mapping k channels) (.map0 f)) = (bitsOf 16 0 ++ encMapFields channels f).length := by
  have hsubs : (f.subs.flatMap (fun s => encBv s.placeholder ++ encBv s.floor ++ encBv s.residue)).length
      = 24 * f.subs.length := by
    simp [List.length_flatMap, Nat.mul_comm]
  have hoption : total (if f.submapsM1.isSome then [1, 4] else [1]) = (encOption 4 f.submapsM1).length := by
    cases f.submapsM1 <;> simp [encOption, total]
  have hcoupling : total (couplingWidths channels f.coupling) = (encCoupling (couplingWidth channels) f.coupling).length := by
    cases f.coupling with
    | none => rfl
    | some steps =>
      have hsteps : (steps.flatMap fun p => bitsOf (couplingWidth channels) p.1 ++ bitsOf (couplingWidth channels) p.2).length
          = couplingWidth channels * (2 * steps.length) := by
        simp only [List.length_flatMap, List.length_append, bitsOf_length, List.map_const', List.sum_replicate, smul_eq_mul]
        ring
      simp only [couplingWidths, encCoupling, total_append, total, total_replicate, List.length_append, List.length_cons,
        bitsOf_length, hsteps]
  have hfields : fieldWidths (.mapping k channels) (.map0 f) = [16] ++ (if f.submapsM1.isSome then [1, 4] else [1])
      ++ couplingWidths channels f.coupling ++ [2] ++ List.replicate f.mux.length 4
      ++ List.replicate (3 * f.subs.length) 8 := by
    cases hc : f.coupling <;> simp [fieldWidths, couplingWidths, couplingWidth, hc]
  simp only [hfields, total_append, hoption, hcoupling, total, total_replicate, encMapFields, List.length_append, hsubs,
    bitsOf_length, encBv_length, length_flatMap_encBv]
  omega

theorem total_fieldWidths {c : Ctx} {i : Instr} (hwf : i.WellFormed c) (hf : fieldsOnly i = true) :
    total (fieldWidths c i) = (encode c i).length := by
  cases hwf with
  | oggPage | floor1PayloadPresent | res0Payload | res1Payload | res2Payload => cases hf
  | idHdr f => simp [fieldWidths, encode, encPrefix_length, encIdFields, total]
  | commentHdr f hwf => exact total_comment f hwf _
  | setupHdr n => simp [fieldWidths, encode, encPrefix_length, total]
  | cbLenDense lens =>
    simp only [fieldWidths, encode, total_append, total, total_replicate, List.length_append, length_flatMap_encBv]
    rfl
  | cbLenSparse lens =>
    have hlens : total (lens.flatMap (fun v => if v.isSome then [1, 5] else [1])) = (lens.flatMap (encOption 5)).length :=
      total_flatMap fun v _ => by cases v <;> rfl
    simp only [fieldWidths, encode, total_append, hlens, total, List.length_append]
    rfl
  | cbLenOrdered n initM1 counts =>
    rw [fieldWidths_cbLenOrdered, total_append, total_countWidths, encode, List.length_append, List.length_append,
      encBv_length]
    rfl
  | cbLookup1 _ _ _ _ f => exact total_vq f 1
  | cbLookup2 _ _ _ _ f => exact total_vq f 2
  | floor1 _ f => exact total_floor f _
  | res0 _ f => exact total_residue f 0
  | res1 _ f => exact total_residue f 1
  | res2 _ f => exact total_residue f 2
  | map0 k channels f => exact total_mapping f k channels
  | audioPacket modes mode => simp [fieldWidths, encode, total, modeWidth, Nat.add_comm]
  | codebook | mode => simp [fieldWidths, encode, total]
  | cbLookup0 | timeEntry | windowFlags | floor1PayloadUnused => rfl

/-- Settles O60: the fields read are those of the encoding, none wider than 32 bits, and they add up to its length. -/
theorem unitLength : Obligations.UnitLength := by
  unfold Obligations.UnitLength
  intro s t c i hi hu _ hc hwf hf h ht
  have hw := Instr.wf_iff.1 hwf
  have hs := sizes_of_ctx hc
  obtain ⟨hpos, hwarn⟩ := exec_skipped hi hs hw hf h ht
  exact ⟨readBy_skips hi (fieldWidths_narrow hu hs hw hf) hpos hwarn, total_fieldWidths hw hf⟩

end Sys2Proof.Machine
end

section
/-! The CRC-32 register is reversible: no step of it forgets a bit, so pages that differ in one byte differ in the register
(40_ogg_demuxer.md R123 to R125). -/

namespace Sys2Proof.Machine

open Sys2Proof

/-! ### One shift -/

/-- The polynomial is odd and a shifted word is even, so the lowest bit tells which case of the shift was taken. -/
theorem crcShift_getLsbD_zero (r : BitVec 32) : (crcShift r).getLsbD 0 = r.msb := by
  unfold crcShift
  cases r.msb <;> simp [crcPoly]

theorem crcShift_xor (a b : BitVec 32) : crcShift (a ^^^ b) = crcShift a ^^^ crcShift b := by
  unfold crcShift
  rw [BitVec.msb_xor, BitVec.shiftLeft_xor_distrib]
  cases a.msb <;> cases b.msb
  · rfl
  · exact BitVec.xor_assoc ..
  · show (a <<< 1 ^^^ b <<< 1) ^^^ crcPoly = (a <<< 1 ^^^ crcPoly) ^^^ b <<< 1
    ac_rfl
  · show a <<< 1 ^^^ b <<< 1 = (a <<< 1 ^^^ crcPoly) ^^^ (b <<< 1 ^^^ crcPoly)
    rw [BitVec.xor_comm (b <<< 1), BitVec.xor_assoc, ← BitVec.xor_assoc crcPoly, BitVec.xor_self, BitVec.zero_xor]

/-- The lowest bit gives back the top bit, and with it the shifted word gives back the others. -/
theorem crcShift_injective : Function.Injective crcShift := by
  intro a b h
  have hmsb : a.msb = b.msb := by rw [← crcShift_getLsbD_zero, h, crcShift_getLsbD_zero]
  have hshift : a <<< 1 = b <<< 1 := by
    unfold crcShift at h
    rw [hmsb] at h
    cases hb : b.msb <;> simpa [hb] using h
  rw [BitVec.msb_eq_decide, BitVec.msb_eq_decide, decide_eq_decide] at hmsb
  bv_omega

/-! ### One byte -/

theorem crcShift_iterate_xor (k : Nat) (a b : BitVec 32) : crcShift^[k] (a ^^^ b) = crcShift^[k] a ^^^ crcShift^[k] b := by
  induction k generalizing a b with
  | zero => rfl
  | succ k ih => simp only [Function.iterate_succ_apply, crcShift_xor, ih]

/-- As long as no 1 is shifted out at the top, the polynomial is never added. -/
theorem crcShift_iterate_of_lt (k : Nat) : ∀ v : BitVec 32, v.toNat * 2 ^ k < 2 ^ 32 → crcShift^[k] v = v <<< k := by
  induction k with
  | zero => intro v _; simp
  | succ k ih =>
    intro v h
    have hv : v.toNat * 2 * 2 ^ k < 2 ^ 32 := by rwa [Nat.mul_assoc, ← Nat.pow_succ']
    have hlt : v.toNat * 2 < 2 ^ 32 := (Nat.le_mul_of_pos_right _ (Nat.two_pow_pos k)).trans_lt hv
    have hshift : (v <<< 1).toNat = v.toNat * 2 := by bv_omega
    have hstep : crcShift v = v <<< 1 := if_neg (by rw [BitVec.msb_eq_decide, decide_eq_true_eq]; omega)
    rw [Function.iterate_succ_apply, hstep, ih _ (by rwa [hshift]), ← BitVec.shiftLeft_add, Nat.add_comm]

/-- The table form of the update is eight shifts of the register with the byte added at its top (40_ogg_demuxer.md R123,
R124). -/
theorem crcUpdate_eq_iterate (r : BitVec 32) (b : Byte) : crcUpdate r b = crcShift^[8] (r ^^^ b.zeroExtend 32 <<< 24) := by
  have hsplit : r ^^^ b.zeroExtend 32 <<< 24 =
      (r.setWidth 24).setWidth 32 ^^^ (r.extractLsb' 24 8 ^^^ b).zeroExtend 32 <<< 24 := by
    ext i hi
    simp only [BitVec.zeroExtend_eq_setWidth, BitVec.getElem_xor, BitVec.getElem_shiftLeft, BitVec.getElem_setWidth,
      BitVec.getLsbD_setWidth, BitVec.getLsbD_xor, BitVec.getLsbD_extractLsb', BitVec.getLsbD_eq_getElem hi]
    by_cases h : i < 24
    · simp only [h, decide_true, Bool.not_true, Bool.true_and, Bool.false_and]
    · have hbit : r.getLsbD (24 + (i - 24)) = r[i] := by
        rw [show 24 + (i - 24) = i by omega, BitVec.getLsbD_eq_getElem hi]
      have h8 : i - 24 < 8 := by omega
      simp only [h, h8, hbit, decide_true, decide_false, Bool.not_false, Bool.true_and, Bool.false_and, Bool.false_xor]
  have hlow : crcShift^[8] ((r.setWidth 24).setWidth 32) = r <<< 8 := by
    rw [crcShift_iterate_of_lt 8 _ (by rw [BitVec.toNat_setWidth, BitVec.toNat_setWidth]; omega)]
    bv_omega
  rw [hsplit, crcShift_iterate_xor, hlow, crcUpdate, crcTable]

/-- Two registers stay different under the same byte. -/
theorem crcUpdate_injective (b : Byte) : Function.Injective (crcUpdate · b) := by
  intro r s h
  simp only [crcUpdate_eq_iterate] at h
  exact (BitVec.xor_left_inj _).1 (crcShift_injective.iterate 8 h)

/-- Two bytes make one register different. -/
theorem crcUpdate_byte_injective (r : BitVec 32) : Function.Injective (crcUpdate r) := by
  intro b c h
  rw [crcUpdate_eq_iterate, crcUpdate_eq_iterate] at h
  have hbyte : b.zeroExtend 32 <<< 24 = c.zeroExtend 32 <<< 24 := (BitVec.xor_right_inj _).1 (crcShift_injective.iterate 8 h)
  bv_omega

/-! ### A byte string -/

theorem foldl_crcUpdate_injective (bytes : List Byte) : Function.Injective fun r => bytes.foldl crcUpdate r := by
  induction bytes with
  | nil => exact fun _ _ h => h
  | cons b bytes ih => exact fun _ _ h => crcUpdate_injective b (ih h)

/-- Byte strings that differ in one byte only have different registers. -/
theorem crcOf_ne_of_byte_ne (before after : List Byte) {b c : Byte} (h : b ≠ c) :
    crcOf (before ++ b :: after) ≠ crcOf (before ++ c :: after) := by
  unfold crcOf
  rw [List.foldl_append, List.foldl_append]
  exact fun heq => h (crcUpdate_byte_injective _ (foldl_crcUpdate_injective after heq))

/-! ### A page -/

theorem flipBit_ne (b : Byte) {k : Nat} (hk : k < 8) : b ^^^ BitVec.ofNat 8 (2 ^ k) ≠ b := by
  intro h
  have hbit : BitVec.ofNat 8 (2 ^ k) = 0 := by simpa using h
  exact absurd hbit ((by decide : ∀ k < 8, BitVec.ofNat 8 (2 ^ k) ≠ 0) k hk)

theorem encodePage_eq_append_payload (p : Page) : encodePage p = encodePage { p with payload := [] } ++ p.payload := by
  rw [encodePage, encodePage, List.append_nil]

/-- The bytes before the payload do not change with it, and the CRC field is taken as 0 (40_ogg_demuxer.md R124). -/
theorem pageCrc_eq_payload (p : Page) : pageCrc p = crcOf (encodePage { p with crc := 0, payload := [] } ++ p.payload) :=
  congrArg crcOf (encodePage_eq_append_payload _)

theorem pageCrc_flipPayload_ne (p : Page) {j k : Nat} (hj : j < p.payload.length) (hk : k < 8) :
    pageCrc (flipPayload p j k) ≠ pageCrc p := by
  obtain ⟨before, b, after, hp, -, hflip⟩ :=
    List.exists_of_modify (fun b : Byte => b ^^^ BitVec.ofNat 8 (2 ^ k)) hj
  rw [pageCrc_eq_payload, pageCrc_eq_payload, show (flipPayload p j k).payload = _ from hflip, hp, ← List.append_assoc,
    ← List.append_assoc]
  exact crcOf_ne_of_byte_ne _ after (flipBit_ne b hk)

end Sys2Proof.Machine
end

section
/-! A page that comes whole, and the end of the stream in place of a page (40_ogg_demuxer.md R120, R125 to R128). -/

namespace Sys2Proof.Machine

open Sys2Proof

/-- A page is taken and its record filled, whatever its CRC says; the CRC decides what follows (40_ogg_demuxer.md R120, R125,
R126). -/
theorem execOggPage_eq {p : Page} {s : State} (hpos : s.srcPos + p.byteLength < 2 ^ 64) :
    exec (.oggPage p) s =
      if pageCrc p = p.crc then .next (acceptPage { s.takeSrc p.byteLength with pg := PageRec.ofPage p })
      else abort { s.takeSrc p.byteLength with pg := PageRec.ofPage p } .pageCrc s.cnt.pagesAccepted :=
  takeThen_of_lt (f := fun t => if pageCrc p = p.crc then _ else abort { t with pg := _ } _ t.cnt.pagesAccepted) hpos

/-- Settles O9: the page is taken, its CRC agrees, and it is accepted. -/
theorem pageAccepted : Obligations.PageAccepted := by
  unfold Obligations.PageAccepted
  intro p s hcrc hpos
  exact (execOggPage_eq hpos).trans (if_pos hcrc)

/-- Settles O10: a CRC that disagrees aborts, and it disagrees after any change of one payload byte, since no byte's update
forgets a bit of the register. -/
theorem pageCrcCheck : Obligations.PageCrcCheck := by
  unfold Obligations.PageCrcCheck
  refine ⟨fun p s hcrc hpos => ?aborts, fun p j k hj hk hcrc => ?flipped⟩
  case aborts => exact ⟨_, (execOggPage_eq hpos).trans (if_neg hcrc), ⟨rfl, rfl, rfl⟩, rfl⟩
  case flipped => exact fun h => pageCrc_flipPayload_ne p hj hk (h.trans hcrc.symm)

/-- The end of the stream where a page would begin is a clean end (40_ogg_demuxer.md R127). -/
theorem step_eos {s : State} {b : Bool} {after : List SrcAnswer} (hq : s.hostQ = []) (hb : s.phase.busy = true)
    (hseq : s.seq = .assemble b) (hn : s.needsPage = true) (hsrc : s.src = .eos :: after) : step s = cleanEnd b s := by
  have hbytes : srcBytes s.src = [] := by rw [hsrc]; rfl
  rw [step_short hq hb hseq hn (by rw [hbytes]; rfl), pageShort, hbytes, hsrc]
  rfl

/-- Settles O12, by the two outcomes of a clean end. -/
theorem endOfStream_spec : Obligations.EndOfStream := by
  unfold Obligations.EndOfStream
  intro s b after hq hb hseq hn hsrc
  rw [step_eos hq hb hseq hn hsrc]
  refine ⟨fun hstarted haudio => ?done, fun h => ?truncated⟩
  case done =>
    subst hstarted
    exact ⟨_, if_pos haudio, rfl, rfl⟩
  case truncated =>
    have habort : cleanEnd b s = abort s .streamTruncated s.packetNo := by
      cases b with
      | true => rfl
      | false => exact if_neg (h.resolve_left Bool.false_ne_true)
    exact ⟨_, habort, ⟨rfl, rfl, rfl⟩, rfl⟩

end Sys2Proof.Machine
end

section
/-! The three header packets (42_headers.md R170 to R176, R183, R185). -/

namespace Sys2Proof.Machine

open Sys2Proof

/-! ### The two ends of a header packet -/

section
variable {s : State} (r : Reader)

/-- Reads that end where fields of the widths `ws` end are reads of those fields. -/
theorem readBy_of_skips {t : State} {ws : List Nat} (hw : Narrow ws) (hr : r = s.reader.skips ws)
    (hp : t.pktBitpos = r.pos) (hx : t.warn = s.warn.add r.exhausted r.clamped) (hi : s.Inv) : ReadBy s t ws := by
  subst hr
  exact readBy_skips hi hw hp hx

/-- A header packet whose reads end at `r` completes: the next phase, the fields committed, and the packet counted
(42_headers.md R170, 40_ogg_demuxer.md R131). -/
theorem completePacket_withReader (cfg : IdConfig) (p : Phase) (hroom : s.packetNo + 1 < 2 ^ 32) :
    ∃ t, completePacket { s.withReader r with cfg := cfg, phase := p } = .next t
      ∧ t = { s with
          pktBitpos := t.pktBitpos, warn := t.warn, phase := p, seq := .boundary, packetNo := s.packetNo + 1
          cnt := { s.cnt with packetsDone := min (s.cnt.packetsDone + 1) (2 ^ 32 - 1) }
          cfg := cfg, view := t.view }
      ∧ t.view = t.mirror
      ∧ ∀ ws, Narrow ws → r = s.reader.skips ws → s.Inv → ReadBy s t ws :=
  ⟨_, completePacket_next.2 ⟨hroom, rfl⟩, rfl, rfl, fun _ hw hr => readBy_of_skips r hw hr rfl rfl⟩

/-- A header packet whose reads end at `r` is rejected: nothing else has changed (60_exceptions.md R351). -/
theorem abort_withReader (c : ErrCode) (i : Nat) :
    ∃ t, abort (s.withReader r) c i = .next t ∧ AbortedAs s t c i
      ∧ t = { s with
          pktBitpos := t.pktBitpos, warn := t.warn, phase := t.phase, err := t.err, view := t.view }
      ∧ ∀ ws, Narrow ws → r = s.reader.skips ws → s.Inv → ReadBy s t ws :=
  ⟨_, rfl, ⟨rfl, rfl, rfl⟩, rfl, fun _ hw hr => readBy_of_skips r hw hr rfl rfl⟩

end

/-! ### The identification header (42_headers.md R172 to R174) -/

/-- The commit does not touch the cursor, and the reads do not touch the configuration. -/
theorem commitId_withReader (f : IdFields) (s : State) (r : Reader) :
    commitId f (s.withReader r) = { s.withReader r with cfg := (commitId f s).cfg } := rfl

/-- Where no check fails, all fields are read, and the commit follows. -/
theorem execIdHdr_of_idHdrError {f : IdFields} (s : State) (h : idHdrError f = none) :
    execIdHdr f s =
      completePacket { s.skips (List.replicate 7 8 ++ [32, 8, 32, 32, 32, 32, 4, 4, 1]) with
        cfg := (commitId f s).cfg, phase := .hdrComment } := by
  unfold idHdrError at h
  split_ifs at h with hversion hchannels hrate he0 he1 horder hframing
  have hsizes : checkBlocksizes f.e0.toNat f.e1.toNat = none := by
    rw [checkBlocksizes, if_neg he0, if_neg he1, if_neg horder]
  have hwidths : prefixWidths ++ [32] ++ ([8] ++ ([32] ++ ([32, 32, 32, 4, 4] ++ [1]))) =
      List.replicate 7 8 ++ [32, 8, 32, 32, 32, 32, 4, 4, 1] := rfl
  rw [execIdHdr]
  dsimp only
  rw [if_neg hversion, if_neg hchannels, if_neg hrate, hsizes]
  dsimp only
  rw [if_neg hframing, State.skips_skips, State.skips_skips, State.skips_skips, State.skips_skips, hwidths, State.skips,
    commitId_withReader]

/-- Settles O14: no check fails, and the packet completes. -/
theorem idHeaderAccepted : Obligations.IdHeaderAccepted := by
  unfold Obligations.IdHeaderAccepted
  intro f s hok hroom
  obtain ⟨t, ht, hframe, hview, hread⟩ :=
    completePacket_withReader (s.reader.skips (List.replicate 7 8 ++ [32, 8, 32, 32, 32, 32, 4, 4, 1])) (commitId f s).cfg
      .hdrComment hroom
  exact ⟨t, (execIdHdr_of_idHdrError s hok).trans ht, hframe, hview, hread _ (narrow_of_decide rfl) rfl⟩

/-! ### The comment header (42_headers.md R175) -/

theorem narrow_commentHdr (f : CommentFields) : Narrow (fieldWidths .commentHdr (.commentHdr f)) :=
  .append (.append (.append (.append (narrow_of_decide rfl) (.replicate (by decide) _)) (narrow_of_decide rfl))
    (.flatMap fun _ => .append (a := [32]) (narrow_of_decide rfl) (.replicate (by decide) _))) (narrow_of_decide rfl)

/-- Settles O16, by the framing bit. -/
theorem commentHeader : Obligations.CommentHeader := by
  unfold Obligations.CommentHeader
  intro f s
  have hreads (hi : s.Inv) (hwf : f.wf = true) := commentHdrReads_eq_skips (reader_bound hi) hwf .commentHdr
  refine ⟨fun hframing hroom => ?complete, fun hframing => ?aborts⟩
  case complete =>
    obtain ⟨t, ht, hframe, hview, hread⟩ := completePacket_withReader ((commentHdrReads f s.reader).skip 1)
      { s.cfg with vendorLen := f.vendorLen, commentCount := f.count } .hdrSetup hroom
    have hset : ¬ f.framing = false := by rw [hframing]; decide
    exact ⟨t, (if_neg hset).trans ht, hframe, hview, fun hi hwf => hread _ (narrow_commentHdr f) (hreads hi hwf) hi⟩
  case aborts =>
    obtain ⟨t, ht, haborted, hframe, hread⟩ := abort_withReader ((commentHdrReads f s.reader).skip 1) .hdrFraming 1
    exact ⟨t, (if_pos hframing).trans ht, haborted, hframe,
      fun hi hwf => hread _ (narrow_commentHdr f) (hreads hi hwf) hi⟩

/-! ### The setup header (42_headers.md R176, R183, R185) -/

section
variable {s : State} (hq : s.hostQ = []) (hb : s.phase.busy = true)
include hq hb

theorem step_count {k : Section} (hseq : s.seq = .count k) : step s = openSection k s := by
  rw [step_busy hq hb, fetchCore, hseq]

theorem step_framing (hseq : s.seq = .framing) : step s = setupFraming s := by
  rw [step_busy hq hb, fetchCore, hseq]

end

/-- The framing bit decides between the two ends (42_headers.md R183). -/
theorem setupFraming_eq (s : State) :
    setupFraming s =
      if packetBit s.pkt s.pktBitpos = true then completePacket { s.skips [1] with phase := .audio }
      else abort (s.skips [1]) .hdrFraming 2 := by
  have hbit : (s.reader.readBits 1).1 = (packetBit s.pkt s.pktBitpos).toNat := rfl
  rw [setupFraming, hbit]
  cases packetBit s.pkt s.pktBitpos <;> rfl

/-- Settles O17, act by act: the head, the count of each section, and the framing bit. -/
theorem setupHeader : Obligations.SetupHeader := by
  unfold Obligations.SetupHeader
  refine ⟨fun n s => ?start, fun s k hq hb hseq => ?count, fun s hq hb hseq hbit hroom => ?complete,
    fun s hq hb hseq hbit => ?aborts⟩
  case start =>
    have hr : s.reader.skips (prefixWidths ++ [8]) = s.reader.skips (List.replicate 8 8) := rfl
    rw [exec, execSetupHdr, State.skips]
    generalize s.reader.skips (prefixWidths ++ [8]) = r at hr
    exact ⟨_, rfl, rfl, readBy_of_skips r (narrow_of_decide rfl) hr rfl rfl⟩
  case count =>
    rw [step_count hq hb hseq]
    cases k <;> exact ⟨_, rfl, rfl, rfl, rfl, rfl, rfl, rfl, fun hi => readBy_skips hi (narrow_of_decide rfl) rfl rfl⟩
  case complete =>
    obtain ⟨t, ht, hframe, hview, hread⟩ := completePacket_withReader (s.reader.skips [1]) s.cfg .audio hroom
    rw [step_framing hq hb hseq, setupFraming_eq, if_pos hbit]
    exact ⟨t, ht, hframe, hview, hread _ (narrow_of_decide rfl) rfl⟩
  case aborts =>
    obtain ⟨t, ht, haborted, hframe, hread⟩ := abort_withReader (s := s) (s.reader.skips [1]) .hdrFraming 2
    rw [step_framing hq hb hseq, setupFraming_eq, if_neg (by rw [hbit]; decide)]
    exact ⟨t, ht, haborted, hframe, hread _ (narrow_of_decide rfl) rfl⟩

end Sys2Proof.Machine
end

section
/-! The value of a read, bit by bit, and where it leaves the reader (41_bitreader.md R151 to R154). -/

namespace Sys2Proof.Machine

open Sys2Proof

/-- A bit of the packet is a bit of its byte, and 0 past the packet's end (41_bitreader.md R150, R154). -/
theorem packetBit_eq_testBit (bytes : List Byte) (p : Nat) :
    packetBit bytes p = (decide (p < 8 * bytes.length) && (bytes.getD (p / 8) 0).toNat.testBit (p % 8)) := by
  rcases Nat.lt_or_ge p (8 * bytes.length) with h | h
  · rw [decide_eq_true h]
    rfl
  · rw [decide_eq_false (Nat.not_lt.2 h), packetBit, List.getD_eq_default _ _ (by omega)]
    exact BitVec.getLsbD_zero

theorem packetField_succ (bytes : List Byte) (n p : Nat) :
    packetField bytes (n + 1) p = Nat.bit (packetBit bytes p) (packetField bytes n (p + 1)) := by
  rw [packetField, Nat.bit_val, Nat.add_comm]

/-- The first bit read is the lowest one of the value (20_memory.md R64). -/
theorem packetField_testBit (bytes : List Byte) (n : Nat) : ∀ p i : Nat,
    (packetField bytes n p).testBit i = (decide (i < n) && packetBit bytes (p + i)) := by
  induction n with
  | zero => exact fun _ i => by simp [packetField]
  | succ n ih =>
    intro p i
    rw [packetField_succ]
    cases i with
    | zero => simp
    | succ i => rw [Nat.testBit_bit_succ, ih, Nat.add_assoc, Nat.add_comm 1 i, decide_eq_decide.2 Nat.succ_lt_succ_iff]

/-- Settles O7: the value is the packet's field at the cursor, and the reader after it is that of `Reader.skip`. -/
theorem readBits : Obligations.ReadBits := by
  unfold Obligations.ReadBits
  intro n r hr
  refine ⟨fun i => ?value, rfl, ?cursor, ?exhaustion, rfl, ?zero⟩
  case value => rw [Reader.readBits_fst, packetField_testBit, packetBit_eq_testBit, Bool.and_assoc]
  case cursor =>
    rw [Reader.readBits_snd, Reader.skip_pos, Reader.avail]
    omega
  case exhaustion =>
    have hshort : r.avail < min n 32 ↔ 8 * r.bytes.length < r.pos + min n 32 := by
      rw [Reader.avail]
      omega
    rw [Reader.readBits_snd, Reader.skip_exhausted, if_congr hshort rfl rfl]
  case zero => exact Prod.ext rfl (Reader.skip_of_fits (Nat.zero_le _) (Nat.zero_le _))

end Sys2Proof.Machine
end

section
/-! No field of a header unit is wider than 32 bits, however far the unit is read before a check fails (41_bitreader.md R152). -/

namespace Sys2Proof.Machine

open Sys2Proof

/-! ### Reads in order -/

theorem Reader.foldl_reaches {β : Type} {f : Reader → β → Reader} (k : ∀ r b, Reader.Reaches r (f r b)) (l : List β) :
    ∀ r : Reader, r.Reaches (l.foldl f r) := by
  induction l with
  | nil => exact Reaches.refl
  | cons b l ih => exact fun r => (k r b).trans (ih _)

section
variable {α β : Type}

theorem Part.next_reaches {f : Reader → α → Part α} (k : ∀ (r : Reader) (a : α), r.Reaches (f r a).rd) (p : Part α) :
    p.rd.Reaches (p.next f).rd := by
  cases h : p.err with
  | some c =>
    rw [next_of_err h]
    exact Reader.Reaches.refl _
  | none =>
    rw [next_of_none h]
    exact k _ _

theorem Part.field_reaches {w : Nat} (hw : w ≤ 32) (write : α → α) (check : Option ErrCode) (p : Part α) :
    p.rd.Reaches (p.field w write check).rd := next_reaches (fun r _ => Reader.skip_reaches hw r) p

theorem Part.foldl_reaches {f : Part α → β → Part α} (k : ∀ (p : Part α) (b : β), p.rd.Reaches (f p b).rd) (l : List β) :
    ∀ p : Part α, p.rd.Reaches (l.foldl f p).rd := by
  induction l with
  | nil => exact fun p => Reader.Reaches.refl p.rd
  | cons b l ih => exact fun p => (k p b).trans (ih _)

end

/-! ### The comment header (42_headers.md R175) -/

theorem commentReads_reaches (c : Comment) (r : Reader) : r.Reaches (commentReads c r) :=
  (Reader.skip_reaches le_rfl r).trans (Reader.discard_reaches _ _ _)

theorem commentHdrReads_reaches (f : CommentFields) (r : Reader) : r.Reaches (commentHdrReads f r) :=
  (Reader.skips_reaches (narrow_of_decide rfl) r).trans <| (Reader.skip_reaches le_rfl _).trans <|
    (Reader.discard_reaches _ _ _).trans <| (Reader.skip_reaches le_rfl _).trans <|
      (Reader.foldl_reaches (fun r c => commentReads_reaches c r) f.comments _).trans (Reader.discard_reaches _ _ _)

/-! ### Length lists (43_codebook.md R212, R214) -/

theorem sparseReads_reaches (lens : List (Option (BitVec 5))) (r : Reader) : r.Reaches (sparseReads lens r) := by
  rw [sparseReads_eq_skips]
  exact Reader.skips_reaches (Narrow.flatMap fun _ => .ite (narrow_of_decide rfl) (narrow_of_decide rfl)) r

/-- A run count is as wide as the number of entries left, and a book has less than `2^24` (43_codebook.md R214). -/
theorem orderedLoop_reaches {entries : Nat} (h : entries < 2 ^ 24) (counts : List Nat) :
    ∀ (l : Nat) (r : Reader) (len : List (Option Nat)), r.Reaches (orderedLoop entries counts l r len).rd := by
  induction counts with
  | nil => exact fun _ r _ => Reader.Reaches.refl r
  | cons c cs ih =>
    intro l r len
    have hwidth : countWidth entries len.length ≤ 24 := ilog_le_of_lt (by omega)
    have hskip : r.Reaches (r.skip (countWidth entries len.length)) := Reader.skip_reaches (hwidth.trans (by decide)) r
    simp only [orderedLoop]
    split
    · exact Reader.Reaches.refl r
    split
    · exact Reader.Reaches.refl r
    split
    · exact hskip
    · exact hskip.trans (ih _ _ _)

/-! ### Floors (44_floor1.md R250 to R254) -/

theorem floorMaster_reaches (n : Nat) (m : Option (BitVec 8)) (p : Part FloorConfig) :
    p.rd.Reaches (floorMaster n m p).rd := by
  cases m with
  | none => exact Reader.Reaches.refl _
  | some v => exact p.field_reaches (by decide) _ _

theorem floorClass_reaches (n : Nat) (p : Part FloorConfig) (c : ClassFields) : p.rd.Reaches (floorClass n p c).rd :=
  (p.next_reaches fun r _ => Reader.skips_reaches (narrow_of_decide rfl) r).trans <|
    (floorMaster_reaches n c.master _).trans <|
      Part.foldl_reaches (fun q _ => q.field_reaches (by decide) _ _) c.books _

theorem floorPartClasses_reaches (cs : List (BitVec 4)) (p : Part FloorConfig) : p.rd.Reaches (floorPartClasses cs p).rd :=
  p.next_reaches fun r _ => (Reader.skip_reaches (by decide) r).trans (Reader.skipEach_reaches (by decide) _ _)

theorem floorRangeAndXs_reaches (f : FloorFields) (p : Part FloorConfig) : p.rd.Reaches (floorRangeAndXs f p).rd := by
  have hrange : f.rangebits.toNat ≤ 32 := by
    have := f.rangebits.isLt
    omega
  exact p.next_reaches fun r _ =>
    (Reader.skips_reaches (narrow_of_decide rfl) r).trans (Reader.skipEach_reaches hrange _ _)

theorem decodeFloor_reaches (n : Nat) (f : FloorFields) (r : Reader) : r.Reaches (decodeFloor n f r).rd :=
  (Reader.skip_reaches (n := 16) (by decide) r).trans <|
    (floorPartClasses_reaches f.partClass { rd := r.skip 16, val := .fresh, err := none }).trans <|
      (Part.foldl_reaches (floorClass_reaches n) f.classes _).trans <| (floorRangeAndXs_reaches f _).trans <|
        Part.next_reaches (fun r _ => Reader.Reaches.refl r) _

/-! ### Residues (45_residue.md R280 to R282) -/

theorem residueHead_reaches (n : Nat) (f : ResidueFields) (p : Part ResidueConfig) : p.rd.Reaches (residueHead n f p).rd :=
  (p.next_reaches fun r _ => Reader.skips_reaches (narrow_of_decide rfl) r).trans (Part.field_reaches (by decide) _ _ _)

theorem residueCascade_reaches (p : Part ResidueConfig) (c : CascadeFields) : p.rd.Reaches (residueCascade p c).rd :=
  p.next_reaches fun r _ => by
    dsimp only
    split
    · exact Reader.skips_reaches (narrow_of_decide rfl) r
    · exact Reader.skips_reaches (narrow_of_decide rfl) r

theorem residueRow_reaches (n cascade : Nat) (passes : List Nat) :
    ∀ (bs : List (BitVec 8)) (p : Part ResidueConfig), p.rd.Reaches (residueRow n cascade passes bs p).rd := by
  induction passes with
  | nil => exact fun _ p => Reader.Reaches.refl p.rd
  | cons pass passes ih =>
    intro bs p
    simp only [residueRow]
    split
    · exact (p.field_reaches (by decide) _ _).trans (ih _ _)
    · exact (p.next_reaches fun r _ => Reader.Reaches.refl r).trans (ih _ _)

theorem residueBooks_reaches (n : Nat) (cascades : List Nat) :
    ∀ (rows : List (List (BitVec 8))) (p : Part ResidueConfig), p.rd.Reaches (residueBooks n cascades rows p).rd := by
  induction cascades with
  | nil => exact fun _ p => Reader.Reaches.refl p.rd
  | cons c cs ih =>
    exact fun rows p => (p.next_reaches fun r _ => Reader.Reaches.refl r).trans <|
      (residueRow_reaches n c _ _ _).trans (ih _ _)

theorem decodeResidue_reaches (ty : ResType) (n : Nat) (f : ResidueFields) (r : Reader) :
    r.Reaches (decodeResidue ty n f r).rd :=
  (Reader.skip_reaches (n := 16) (by decide) r).trans <|
    (residueHead_reaches n f { rd := r.skip 16, val := .fresh ty, err := none }).trans <|
      (Part.foldl_reaches residueCascade_reaches f.cascade _).trans (residueBooks_reaches n _ _ _)

/-! ### Mappings (42_headers.md R178 to R181) -/

theorem mapSubmaps_reaches (v : Option (BitVec 4)) (p : Part MappingConfig) : p.rd.Reaches (mapSubmaps v p).rd :=
  p.next_reaches fun r _ => by
    dsimp only
    split
    · exact Reader.skips_reaches (narrow_of_decide rfl) r
    · exact Reader.skip_reaches (by decide) r

section
variable {channels : Nat} (hw : couplingWidth channels ≤ 32)
include hw

theorem mapStep_reaches (p : Part MappingConfig) (st : Nat × Nat) : p.rd.Reaches (mapStep channels p st).rd :=
  p.next_reaches fun r _ => by
    have hpair := Reader.skips_reaches (Narrow.replicate hw 2) r
    dsimp only
    split
    · exact hpair
    · exact hpair

theorem mapCoupling_reaches (c : Option (List (Nat × Nat))) (p : Part MappingConfig) :
    p.rd.Reaches (mapCoupling channels c p).rd := by
  cases c with
  | none => exact p.next_reaches fun r _ => Reader.skip_reaches (by decide) r
  | some steps =>
    exact (p.next_reaches fun r _ => Reader.skips_reaches (narrow_of_decide rfl) r).trans
      (Part.foldl_reaches (mapStep_reaches hw) steps _)

end

theorem mapMux_reaches (channels : Nat) (reserved : BitVec 2) (mux : List (BitVec 4)) (p : Part MappingConfig) :
    p.rd.Reaches (mapMux channels reserved mux p).rd :=
  (p.field_reaches (by decide) _ _).trans <| Part.next_reaches (fun r m => by
    split
    · exact Part.foldl_reaches (fun q _ => q.field_reaches (by decide) _ _) mux { rd := r, val := m, err := none }
    · exact Reader.Reaches.refl r) _

theorem mapSub_reaches (nf nr : Nat) (p : Part MappingConfig) (sm : SubmapFields) : p.rd.Reaches (mapSub nf nr p sm).rd :=
  (p.field_reaches (by decide) _ _).trans <| (Part.field_reaches (by decide) _ _ _).trans <|
    (Part.field_reaches (by decide) _ _ _).trans <| Part.next_reaches (fun r _ => Reader.Reaches.refl r) _

theorem decodeMapping_reaches {channels : Nat} (hw : couplingWidth channels ≤ 32) (nf nr : Nat) (f : MapFields)
    (r : Reader) : r.Reaches (decodeMapping channels nf nr f r).rd :=
  (Reader.skip_reaches (n := 16) (by decide) r).trans <|
    (mapSubmaps_reaches f.submapsM1 { rd := r.skip 16, val := .fresh, err := none }).trans <|
      (mapCoupling_reaches hw f.coupling _).trans <| (mapMux_reaches channels f.reserved f.mux _).trans <|
        Part.foldl_reaches (mapSub_reaches nf nr) f.subs _

end Sys2Proof.Machine
end

section
/-! `WARN_CLAMP = 0` and the bounds of the computed widths, over reads, writes and the ends of an operation, and over the header
units (41_bitreader.md R152). -/

namespace Sys2Proof.Machine

open Sys2Proof

/-- A next state, if there is one, is one in which no read has been clamped. -/
def LeavesUnclamped (o : Host.Outcome State Fault Refusal) : Prop := ∀ t, o = .next t → t.Unclamped

/-- What the invariant looks at. -/
def State.bounds (s : State) : Nat × Nat × Nat × List Codebook := (s.warn.clamp, s.cfg.channels, s.nModes, s.codebooks)

/-! ### Reads, writes and ends -/

theorem packetField_lt (bytes : List Byte) (n p : Nat) : packetField bytes n p < 2 ^ n := by
  have h := takeNat_lt n ((bitsOfBytes bytes).drop p)
  rwa [takeNat_drop] at h

theorem couplingWidth_le {channels : Nat} (h : channels < 256) : couplingWidth channels ≤ 32 :=
  (ilog_le_of_lt (n := 8) (by omega)).trans (by decide)

/-- The ranges are at most 256 (44_floor1.md R256). -/
theorem floorYWidth_le (multiplier : Nat) : floorYWidth (floorRange multiplier) ≤ 32 := by
  unfold floorRange
  split <;> decide

section
variable {s : State} (h : s.Unclamped)
include h

/-- Writes of other fields. -/
theorem State.Unclamped.write {t : State} (ht : t.bounds = s.bounds) : t.Unclamped := by
  simp only [State.bounds, Prod.mk.injEq] at ht
  obtain ⟨hclamp, hchannels, hmodes, hbooks⟩ := ht
  exact ⟨hclamp ▸ h.clamp, hchannels ▸ h.channels, hmodes ▸ h.modes, hbooks ▸ h.entries⟩

/-- Reads of at most 32 bits each count no clamp. -/
theorem State.Unclamped.withReader {r : Reader} (hr : s.reader.Reaches r) : (s.withReader r).Unclamped where
  clamp := by
    show satAdd 32 s.warn.clamp r.clamped = 0
    rw [h.clamp, hr.noClamp]
    rfl
  channels := h.channels
  modes := h.modes
  entries := h.entries

theorem State.Unclamped.skips {ws : List Nat} (hw : Narrow ws) : (s.skips ws).Unclamped :=
  h.withReader (Reader.skips_reaches hw _)

/-- Writes of the codebook under decode that leave its number of entries. -/
theorem State.Unclamped.writeBook {f : Codebook → Codebook} {t : State} (ht : t.bounds = (s.modifyBook f).bounds)
    (hf : ∀ b, (f b).entries = b.entries) : t.Unclamped := by
  refine State.Unclamped.write (s := s.modifyBook f) { h with entries := fun b hb => ?_ } ht
  obtain ⟨k, hk⟩ := List.mem_iff_getElem?.1 hb
  rw [State.modifyBook, modifyAt, List.getElem?_modify] at hk
  obtain ⟨a, ha, rfl⟩ := Option.map_eq_some_iff.1 hk
  have hlt := h.entries a (List.mem_of_getElem? ha)
  split
  · rwa [hf]
  · exact hlt

theorem State.Unclamped.book_entries {b : Codebook} (hb : s.book = some b) : b.entries < 2 ^ 24 :=
  h.entries b (List.mem_of_getElem? hb)

theorem LeavesUnclamped.next : LeavesUnclamped (.next s) := by
  rintro _ ⟨⟩
  exact h

theorem LeavesUnclamped.completePacket : LeavesUnclamped (completePacket s) := by
  intro t ht
  obtain ⟨-, rfl⟩ := completePacket_next.1 ht
  exact h.write rfl

theorem LeavesUnclamped.takeThen {k : Nat} {f : State → Host.Outcome State Fault Refusal}
    (hf : (s.takeSrc k).Unclamped → LeavesUnclamped (f (s.takeSrc k))) : LeavesUnclamped (takeThen k s f) := by
  intro t ht
  obtain ⟨-, ht⟩ := takeThen_next.1 ht
  exact hf (h.write rfl) t ht

end

theorem LeavesUnclamped.fault (e : Fault) : LeavesUnclamped (.fault e) := fun _ h => by cases h

theorem LeavesUnclamped.abort {s : State} {c : ErrCode} {i : Nat} (h : s.Unclamped) : LeavesUnclamped (abort s c i) :=
  .next (h.write rfl)

/-- The operations on codewords read one bit at a time, whatever they end in. -/
theorem LeavesUnclamped.finish {α : Type} {g : Got α} {s : State} {f : α → State → Host.Outcome State Fault Refusal}
    (h : s.Unclamped) (hg : g.From s.reader) (hf : ∀ a u, u.Unclamped → LeavesUnclamped (f a u)) :
    LeavesUnclamped (g.finish s f) := by
  cases g with
  | ok a r => exact hf a _ (h.withReader hg)
  | bad c i r => exact .abort (h.withReader hg)
  | stuck e => exact .fault e

/-! ### Header packets (42_headers.md R171 to R185) -/

section
variable {s : State} (h : s.Unclamped)
include h

theorem execIdHdr_unclamped (f : IdFields) : LeavesUnclamped (execIdHdr f s) := by
  have ha := h.skips (ws := prefixWidths ++ [32]) (narrow_of_decide rfl)
  unfold execIdHdr
  dsimp only
  generalize s.skips (prefixWidths ++ [32]) = a at ha ⊢
  have hb := ha.skips (ws := [8]) (narrow_of_decide rfl)
  generalize a.skips [8] = b at hb ⊢
  have hc := hb.skips (ws := [32]) (narrow_of_decide rfl)
  generalize b.skips [32] = c at hc ⊢
  have hd := hc.skips (ws := [32, 32, 32, 4, 4]) (narrow_of_decide rfl)
  generalize c.skips [32, 32, 32, 4, 4] = d at hd ⊢
  have he := hd.skips (ws := [1]) (narrow_of_decide rfl)
  split
  · exact .abort ha
  split
  · exact .abort hb
  split
  · exact .abort hc
  split
  · exact .abort hd
  split
  · exact .abort he
  · exact .completePacket { he with channels := f.channels.isLt }

theorem execCommentHdr_unclamped (f : CommentFields) : LeavesUnclamped (execCommentHdr f s) := by
  have ht := h.withReader ((commentHdrReads_reaches f s.reader).trans (Reader.skip_reaches (n := 1) (by decide) _))
  unfold execCommentHdr
  split
  · exact .abort ht
  · exact .completePacket (ht.write rfl)

theorem execSetupHdr_unclamped (n : BitVec 8) : LeavesUnclamped (execSetupHdr n s) := by
  have ht := h.skips (ws := prefixWidths ++ [8]) (narrow_of_decide rfl)
  unfold execSetupHdr
  generalize s.skips (prefixWidths ++ [8]) = u at ht ⊢
  exact .next (ht.write rfl)

/-- A 6-bit count plus one is at most 64 (42_headers.md R176). -/
theorem openSection_unclamped (k : Section) : LeavesUnclamped (openSection k s) := by
  have ht := h.skips (ws := [6]) (narrow_of_decide rfl)
  cases k with
  | time | floor | residue | mapping => exact .next (ht.write rfl)
  | mode => exact .next { ht with modes := packetField_lt s.pkt 6 s.pktBitpos }

theorem setupFraming_unclamped : LeavesUnclamped (setupFraming s) := by
  have ht := h.skips (ws := [1]) (narrow_of_decide rfl)
  unfold setupFraming
  split
  · exact .completePacket (ht.write rfl)
  · exact .abort ht

/-! ### Codebooks (43_codebook.md R210 to R224) -/

/-- The new book's number of entries has 24 bits (43_codebook.md R210). -/
theorem execCodebook_unclamped (dims : BitVec 16) (entries : BitVec 24) : LeavesUnclamped (execCodebook dims entries s) := by
  have ht := h.skips (ws := [24, 16, 24]) (narrow_of_decide rfl)
  refine .next { ht with entries := fun b hb => ?_ }
  rcases List.mem_append.1 hb with hb | hb
  · exact h.entries b hb
  · obtain rfl := List.mem_singleton.1 hb
    exact entries.isLt

theorem execCbLenDense_unclamped (lens : List (BitVec 5)) : LeavesUnclamped (execCbLenDense lens s) := by
  have hflags := Reader.skips_reaches (narrow_of_decide (ws := [1, 1]) rfl) s.reader
  have ht := h.withReader (hflags.trans (Reader.skipEach_reaches (w := 5) (by decide) lens.length _))
  exact .next (ht.writeBook rfl fun _ => rfl)

theorem execCbLenSparse_unclamped (lens : List (Option (BitVec 5))) : LeavesUnclamped (execCbLenSparse lens s) := by
  have hflags := Reader.skips_reaches (narrow_of_decide (ws := [1, 1]) rfl) s.reader
  have ht := h.withReader (hflags.trans (sparseReads_reaches lens _))
  exact .next (ht.writeBook rfl fun _ => rfl)

theorem execCbLenOrdered_unclamped (initM1 : BitVec 5) (counts : List Nat) :
    LeavesUnclamped (execCbLenOrdered initM1 counts s) := by
  unfold execCbLenOrdered
  split
  · exact .fault _
  · rename_i book hbook
    have ht := h.withReader ((Reader.skips_reaches (narrow_of_decide (ws := [1, 5]) rfl) s.reader).trans
      (orderedLoop_reaches (h.book_entries hbook) counts (plusOne initM1) _ []))
    dsimp only
    split
    · exact .abort (ht.writeBook rfl fun _ => rfl)
    · exact .next (ht.writeBook rfl fun _ => rfl)

theorem execCbLookup0_unclamped : LeavesUnclamped (execCbLookup0 s) :=
  .next ((h.skips (ws := [4]) (narrow_of_decide rfl)).writeBook rfl fun _ => rfl)

theorem lookupVq_unclamped (t : Nat) (f : VqFields) : LeavesUnclamped (lookupVq t f s) := by
  have hhead := Reader.skips_reaches (narrow_of_decide (ws := [4, 32, 32, 4, 1]) rfl) s.reader
  have hbits : plusOne f.valueBitsM1 ≤ 32 := by
    have := f.valueBitsM1.isLt
    unfold plusOne
    omega
  unfold lookupVq
  split
  · exact .fault _
  dsimp only
  split
  · exact .abort ((h.withReader hhead).writeBook rfl fun _ => rfl)
  split
  · exact .abort ((h.withReader hhead).writeBook rfl fun _ => rfl)
  · exact .next ((h.withReader (hhead.trans (Reader.skipEach_reaches hbits _ _))).writeBook rfl fun _ => rfl)

theorem huffBuild_unclamped : LeavesUnclamped (huffBuild s) := by
  unfold huffBuild
  split
  · exact .fault _
  dsimp only
  split
  · exact .abort (h.writeBook rfl fun _ => rfl)
  split
  · exact .abort (h.writeBook rfl fun _ => rfl)
  · exact .next (h.writeBook rfl fun _ => rfl)

/-! ### The other setup units (42_headers.md R177 to R182, 44_floor1.md R250, 45_residue.md R280) -/

theorem execTimeEntry_unclamped : LeavesUnclamped (execTimeEntry s) :=
  .next ((h.skips (ws := [16]) (narrow_of_decide rfl)).write rfl)

theorem execFloor1_unclamped (f : FloorFields) : LeavesUnclamped (execFloor1 f s) := by
  have ht := h.withReader (decodeFloor_reaches s.nCodebooks f s.reader)
  unfold execFloor1
  dsimp only
  split
  · exact .abort (ht.write rfl)
  · exact .next (ht.write rfl)

theorem residueSetup_unclamped (ty : ResType) (f : ResidueFields) : LeavesUnclamped (residueSetup ty f s) := by
  have ht := h.withReader (decodeResidue_reaches ty s.nCodebooks f s.reader)
  unfold residueSetup
  dsimp only
  split
  · exact .abort (ht.write rfl)
  · exact .next (ht.write rfl)

theorem execMap0_unclamped (f : MapFields) : LeavesUnclamped (execMap0 f s) := by
  have ht := h.withReader (decodeMapping_reaches (couplingWidth_le h.channels) s.nFloors s.nResidues f s.reader)
  unfold execMap0
  dsimp only
  split
  · exact .abort (ht.write rfl)
  · exact .next (ht.write rfl)

theorem execMode_unclamped (blockflag : Bool) (mapping : BitVec 8) : LeavesUnclamped (execMode blockflag mapping s) := by
  have ht := h.skips (ws := [1, 16, 16, 8]) (narrow_of_decide rfl)
  unfold execMode
  generalize s.skips [1, 16, 16, 8] = u at ht ⊢
  dsimp only
  split
  · exact .abort (ht.write rfl)
  · exact .next (ht.write rfl)

end

end Sys2Proof.Machine
end

section
/-! No act of an audio packet, of packet assembly or of the host leaves a clamped read, and so no step does (41_bitreader.md
R152). -/

namespace Sys2Proof.Machine

open Sys2Proof

section
variable {s : State} (h : s.Unclamped)
include h

/-! ### Audio packets (46_audio_packet.md R300 to R307, 47_synthesis.md R331) -/

theorem execAudioPacket_unclamped (mode : Nat) : LeavesUnclamped (execAudioPacket mode s) := by
  have ht := h.skips (modeWidth_le h)
  unfold execAudioPacket
  dsimp only
  split
  · exact .abort ht
  split
  · exact .fault _
  · exact .next (ht.write rfl)

theorem execWindowFlags_unclamped (prev next : Bool) : LeavesUnclamped (execWindowFlags prev next s) :=
  .next ((h.skips (ws := [1, 1]) (narrow_of_decide rfl)).write rfl)

theorem execFloor1PayloadUnused_unclamped : LeavesUnclamped (execFloor1PayloadUnused s) :=
  .next ((h.skips (ws := [1]) (narrow_of_decide rfl)).write rfl)

theorem execFloor1PayloadPresent_unclamped (y0 y1 : Nat) : LeavesUnclamped (execFloor1PayloadPresent y0 y1 s) := by
  unfold execFloor1PayloadPresent
  split
  · exact .fault _
  · rename_i f _
    have hw : Narrow [1, floorYWidth (floorRange f.multiplier), floorYWidth (floorRange f.multiplier)] :=
      (narrow_of_decide (ws := [1]) rfl).append (.replicate (floorYWidth_le f.multiplier) 2)
    have hfrom := (floorPartitions_from s.codebooks f f.partClass _).mono (Reader.skips_reaches hw s.reader)
    exact .finish (h.write rfl) hfrom fun _ _ hu => .next (hu.write rfl)

theorem residuePayload_unclamped (ty : ResType) : LeavesUnclamped (residuePayload ty s) := by
  unfold residuePayload
  split
  · exact .fault _
  split
  · exact .fault _
  · exact .finish h (residueDecode_from _ _ _ _ _ _ _) fun _ _ hu => .next (hu.write rfl)

theorem channelVector_unclamped {ch : Nat} {t : State} (ht : channelVector ch s = .inl t) : t.Unclamped := by
  rcases channelVector_inl.1 ht with ⟨-, rfl⟩ | ⟨-, _, _, _, _, _, -, -, rfl⟩
  · exact h.write rfl
  · exact h.write rfl

theorem channelVector_leavesUnclamped {ch : Nat} {o : Host.Outcome State Fault Refusal} (ho : channelVector ch s = .inr o) :
    LeavesUnclamped o := by
  rcases (channelVector_inr ho).2 with ⟨e, rfl⟩ | ⟨_, _, _, _, -, -, rfl⟩
  · exact .fault e
  · exact .next (h.write rfl)

end

/-- The loop over the channels goes on, or ends the step at its first channel without a vector (44_floor1.md R266). -/
theorem floorVectors_unclamped (chs : List Nat) : ∀ {s : State}, s.Unclamped →
    (∀ t, floorVectors chs s = .inl t → t.Unclamped) ∧ ∀ o, floorVectors chs s = .inr o → LeavesUnclamped o := by
  induction chs with
  | nil =>
    intro s h
    refine ⟨fun _ ht => ?_, fun _ ho => (nomatch ho)⟩
    cases ht
    exact h
  | cons ch chs ih =>
    intro s h
    cases hch : channelVector ch s with
    | inl u =>
      simp only [floorVectors, hch]
      exact ih (channelVector_unclamped h hch)
    | inr o =>
      simp only [floorVectors, hch]
      refine ⟨fun _ ht => (nomatch ht), fun _ ho => ?_⟩
      cases ho
      exact channelVector_leavesUnclamped h hch

section
variable {s : State} (h : s.Unclamped)
include h

theorem floorCurves_unclamped : LeavesUnclamped (floorCurves s) := by
  obtain ⟨hgoes, hends⟩ := floorVectors_unclamped (List.range s.cfg.channels) h
  unfold floorCurves
  split
  · exact .fault _
  split
  · exact hends _ ‹_›
  · rename_i hinl
    exact .next ((hgoes _ hinl).write rfl)

theorem coupleOp_unclamped : LeavesUnclamped (coupleOp s) := by
  unfold coupleOp
  split
  · exact .fault _
  · exact .next (h.write rfl)

theorem emit_unclamped (k : Nat) : LeavesUnclamped (emit k s) := by
  obtain ⟨m, -, ⟨-, he⟩ | ⟨-, he⟩⟩ := emit_cases k s
  · rw [he]
    exact .completePacket (h.write rfl)
  · rw [he]
    exact .next (h.write rfl)

end

/-! ### Host writes (10_state.md R40, R41) -/

/-- After a reset nothing is configured and nothing warned of (70_reset_and_hazards.md R381). -/
theorem softReset_unclamped (s : State) : (softReset s).Unclamped :=
  ⟨rfl, Nat.succ_pos 255, Nat.zero_le 64, fun _ hb => by cases hb⟩

theorem hostWrite_unclamped {s : State} {w : HostWrite} (h : s.Unclamped) : LeavesUnclamped (hostWrite w s) := by
  intro t ht
  obtain ⟨-, ⟨-, rfl⟩ | ⟨-, rfl⟩⟩ := hostWrite_next ht
  · rcases writeCtrl_cases w.value s with ⟨-, he⟩ | ⟨-, -, -, he⟩ | ⟨-, -, he⟩
    · rw [he]
      exact softReset_unclamped s
    · rw [he]
      exact h.write rfl
    · rw [he]
      exact h
  · exact h

theorem takeHostWrite_unclamped {s : State} (h : s.Unclamped) (w : HostWrite) (rest : List HostWrite) :
    LeavesUnclamped (takeHostWrite w rest s) := by
  unfold takeHostWrite
  dsimp only
  split
  · exact hostWrite_unclamped (h.write rfl)
  · exact hostWrite_unclamped (h.write rfl)

section
variable {s : State} (h : s.Unclamped)
include h

/-! ### Packet assembly (40_ogg_demuxer.md R120 to R128): no bit of a packet is read -/

theorem execOggPage_unclamped (p : Page) : LeavesUnclamped (execOggPage p s) :=
  .takeThen h fun ht => by
    dsimp only
    split
    · exact .next (ht.write rfl)
    · exact .abort (ht.write rfl)

theorem cleanEnd_unclamped (b : Bool) : LeavesUnclamped (cleanEnd b s) := by
  unfold cleanEnd
  split
  · exact .abort h
  rcases endOfStream_cases s with ⟨-, he⟩ | ⟨-, he⟩
  · rw [he]
    exact .next (h.write rfl)
  · rw [he]
    exact .next (h.write rfl)

theorem pageShort_unclamped (b : Bool) (bytes : List Byte) : LeavesUnclamped (pageShort b bytes s) := by
  unfold pageShort
  split
  · exact .next h
  · exact .takeThen h fun ht => .abort (ht.write rfl)
  · exact .next h
  split
  · exact cleanEnd_unclamped h b
  · exact .takeThen h fun ht => .abort (ht.write rfl)

theorem pageIllegal_unclamped (bytes : List Byte) (c : ErrCode) : LeavesUnclamped (pageIllegal bytes c s) :=
  .takeThen h fun ht => .abort (ht.write rfl)

theorem takeSegment_unclamped : LeavesUnclamped (takeSegment s) := by
  intro t ht
  obtain ⟨_, -, ⟨-, rfl⟩ | ⟨-, rfl⟩⟩ := takeSegment_next ht
  · exact h.write rfl
  · exact h.write rfl

theorem fetchSegment_unclamped (b : Bool) : LeavesUnclamped ((fetchSegment b s).outcome s) := by
  unfold fetchSegment
  split
  · split
    · exact execOggPage_unclamped h _
    · exact pageShort_unclamped h b _
    · exact pageIllegal_unclamped h _ _
  · exact takeSegment_unclamped h

/-! ### The units -/

theorem exec_unclamped (i : Instr) : LeavesUnclamped (exec i s) := by
  cases i with
  | oggPage p => exact execOggPage_unclamped h p
  | idHdr f => exact execIdHdr_unclamped h f
  | commentHdr f => exact execCommentHdr_unclamped h f
  | setupHdr n => exact execSetupHdr_unclamped h n
  | codebook dims entries => exact execCodebook_unclamped h dims entries
  | cbLenDense lens => exact execCbLenDense_unclamped h lens
  | cbLenSparse lens => exact execCbLenSparse_unclamped h lens
  | cbLenOrdered initM1 counts => exact execCbLenOrdered_unclamped h initM1 counts
  | cbLookup0 => exact execCbLookup0_unclamped h
  | cbLookup1 f => exact lookupVq_unclamped h 1 f
  | cbLookup2 f => exact lookupVq_unclamped h 2 f
  | timeEntry => exact execTimeEntry_unclamped h
  | floor1 f => exact execFloor1_unclamped h f
  | res0 f => exact residueSetup_unclamped h .t0 f
  | res1 f => exact residueSetup_unclamped h .t1 f
  | res2 f => exact residueSetup_unclamped h .t2 f
  | map0 f => exact execMap0_unclamped h f
  | mode blockflag mapping => exact execMode_unclamped h blockflag mapping
  | audioPacket mode => exact execAudioPacket_unclamped h mode
  | windowFlags prev next => exact execWindowFlags_unclamped h prev next
  | floor1PayloadUnused => exact execFloor1PayloadUnused_unclamped h
  | floor1PayloadPresent y0 y1 => exact execFloor1PayloadPresent_unclamped h y0 y1
  | res0Payload => exact residuePayload_unclamped h .t0
  | res1Payload => exact residuePayload_unclamped h .t1
  | res2Payload => exact residuePayload_unclamped h .t2

/-- An illegal selector: the fields up to it are no wider than 32 bits (30_encoding.md R97). -/
theorem takeIllegal_unclamped {c : Ctx} {bs : List Bool} {e : ErrCode} {k head : Nat} {ws : List Nat}
    (hd : decode c bs = .illegal e k ws head) : LeavesUnclamped (takeIllegal e k ws head s) := by
  have ht := h.skips (decode_illegal hd).widths
  refine .abort ?_
  unfold illegalWrites
  split
  · exact ht.writeBook rfl fun _ => rfl
  · exact ht.write rfl
  · exact ht.write rfl
  · exact ht

theorem fetchUnit_unclamped : LeavesUnclamped ((fetchUnit s).outcome s) := by
  unfold fetchUnit
  split
  · exact .fault _
  split
  · exact exec_unclamped h _
  · exact takeIllegal_unclamped h ‹_›

/-! ### The step -/

theorem fetchCore_unclamped : LeavesUnclamped ((fetchCore s).outcome s) := by
  unfold fetchCore
  cases s.seq with
  | boundary => exact .next (h.write rfl)
  | assemble b => exact fetchSegment_unclamped h b
  | huffBuild => exact huffBuild_unclamped h
  | count k => exact openSection_unclamped h k
  | framing => exact setupFraming_unclamped h
  | curves => exact floorCurves_unclamped h
  | couple => exact coupleOp_unclamped h
  | synth => exact .next (h.write rfl)
  | emit k => exact emit_unclamped h k
  | packet | codebook | lengths | lookup | time _ _ | floor | residue | mapping | mode | window | floorPayload _
  | residuePayload _ => exact fetchUnit_unclamped h

theorem fetchCoreOrRest_unclamped : LeavesUnclamped ((fetchCoreOrRest s).outcome s) := by
  unfold fetchCoreOrRest
  split
  · exact fetchCore_unclamped h
  · exact .next h

theorem step_unclamped : LeavesUnclamped (step s) := by
  rw [step_eq, fetch]
  split
  · exact fetchCoreOrRest_unclamped h
  split
  · exact takeHostWrite_unclamped h _ _
  · exact fetchCoreOrRest_unclamped h

end

/-- Settles O55: the widths that are computed stay bounded, so no unit and no act makes a read of more than 32 bits. -/
theorem noReadClamped : Obligations.NoReadClamped := by
  unfold Obligations.NoReadClamped
  exact fun _ t _ h hstep => step_unclamped h t hstep

end Sys2Proof.Machine
end

section
/-! An identification header that a check rejects, a time entry, and a mode (42_headers.md R172 to R174, R177, R182). -/

namespace Sys2Proof.Machine

open Sys2Proof

/-! ### The identification header, rejected (42_headers.md R172 to R174) -/

theorem Narrow.take {ws : List Nat} (h : Narrow ws) (k : Nat) : Narrow (ws.take k) :=
  fun w hw => h w (List.mem_of_mem_take hw)

/-- The first failing check aborts, and what has been read ends with its field. -/
theorem execIdHdr_of_idHdrError_eq_some {f : IdFields} (s : State) {c : ErrCode} {k n : Nat}
    (h : idHdrError f = some (c, k, n)) :
    execIdHdr f s = abort (s.skips ((List.replicate 7 8 ++ [32, 8, 32, 32, 32, 32, 4, 4, 1]).take n)) c k := by
  unfold idHdrError at h
  simp only [execIdHdr, State.skips_skips, checkBlocksizes]
  split_ifs at h ⊢ with hversion hchannels hrate he0 he1 horder hframing <;> cases h <;> rfl

/-- Settles O15: the first failing check aborts with the fields up to it read. -/
theorem idHeaderRejected : Obligations.IdHeaderRejected := by
  unfold Obligations.IdHeaderRejected
  intro f s c k n herror
  obtain ⟨t, ht, haborted, hframe, hread⟩ :=
    abort_withReader (s := s) (s.reader.skips ((List.replicate 7 8 ++ [32, 8, 32, 32, 32, 32, 4, 4, 1]).take n)) c k
  exact ⟨t, (execIdHdr_of_idHdrError_eq_some s herror).trans ht, haborted, hframe,
    hread _ (.take (narrow_of_decide rfl) n) rfl⟩

/-! ### Time entries and modes (42_headers.md R177, R182) -/

/-- Settles O18: the 16 bits are read, and the sequencer goes on to the next entry or section. -/
theorem timeEntry : Obligations.TimeEntry := by
  unfold Obligations.TimeEntry
  intro s k n hseq
  have hnext : s.seq.afterTime = if k + 1 < n then .time (k + 1) n else .count .floor := by rw [hseq, Seq.afterTime]
  rw [exec, execTimeEntry, hnext]
  exact ⟨_, rfl, rfl, readBy_of_skips _ (narrow_of_decide rfl) rfl rfl rfl⟩

/-- Settles O44: the four fields are read, then the mapping's number decides. -/
theorem modeUnit : Obligations.ModeUnit := by
  unfold Obligations.ModeUnit
  intro blockflag m s
  have hread {t : State} := readBy_of_skips (s := s) (t := t) (s.reader.skips [1, 16, 16, 8]) (narrow_of_decide rfl) rfl
  rw [exec, execMode, State.skips]
  generalize s.reader.skips [1, 16, 16, 8] = r at hread
  refine ⟨fun h => ?stored, fun h => ?aborts⟩
  case stored => exact ⟨_, if_neg (Nat.not_le.2 h), rfl, hread rfl rfl⟩
  case aborts => exact ⟨_, if_pos h, ⟨rfl, rfl, rfl⟩, rfl, ⟨_, rfl⟩, hread rfl rfl⟩

end Sys2Proof.Machine
end

section
/-! The fields of a configuration unit in order, each with its check: the unit ends with its first error, and is read up to that
field (60_exceptions.md R353). -/

namespace Sys2Proof.Machine

open Sys2Proof

/-! ### Units -/

/-- A field of a unit: its width, and the error that its check raises, if it fails. -/
abbrev CheckedField := Nat × Option ErrCode

/-- One more field of a unit is read and checked; nothing is read after an error (60_exceptions.md R353). -/
def readChecked (x : Reader × Option ErrCode) (fd : CheckedField) : Reader × Option ErrCode :=
  match x.2 with
  | some _ => x
  | none => (x.1.skip fd.1, fd.2)

theorem foldl_readChecked_some (fs : List CheckedField) (r : Reader) (c : ErrCode) :
    fs.foldl readChecked (r, some c) = (r, some c) := by
  induction fs with
  | nil => rfl
  | cons fd fs ih => exact ih

/-- A unit ends with its first error, and is read up to that field (60_exceptions.md R353). -/
theorem foldl_readChecked (fs : List CheckedField) : ∀ r : Reader,
    fs.foldl readChecked (r, none) =
      (r.skips (readUpTo (fs.map Prod.fst) (fs.map fun fd => fd.2.isNone)), fs.findSome? Prod.snd) := by
  induction fs with
  | nil => exact fun _ => rfl
  | cons fd fs ih =>
    intro r
    obtain ⟨w, check⟩ := fd
    cases check with
    | some c => exact foldl_readChecked_some fs (r.skip w) c
    | none => exact ih (r.skip w)

/-- From `p` to `q` the fields `fs` are read and checked; where no check fails, the entry is written by `write`. -/
def Part.Runs {α : Type} (p q : Part α) (fs : List CheckedField) (write : α → α) : Prop :=
  (q.rd, q.err) = fs.foldl readChecked (p.rd, p.err) ∧ (q.err = none → p.err = none ∧ q.val = write p.val)

section
variable {α β : Type} {p q q' : Part α} {fs fs' : List CheckedField} {write write' : α → α}

theorem Part.Runs.refl (p : Part α) : p.Runs p [] id := ⟨rfl, fun h => ⟨h, rfl⟩⟩

theorem Part.Runs.trans (h : p.Runs q fs write) (h' : q.Runs q' fs' write') :
    p.Runs q' (fs ++ fs') (fun a => write' (write a)) := by
  obtain ⟨hread, hval⟩ := h
  obtain ⟨hread', hval'⟩ := h'
  refine ⟨by rw [List.foldl_append, ← hread, hread'], fun he => ?_⟩
  obtain ⟨hq, hv'⟩ := hval' he
  obtain ⟨hp, hv⟩ := hval hq
  exact ⟨hp, by rw [hv', hv]⟩

/-- A step that goes on unless a check has failed. -/
theorem Part.Runs.next {f : Reader → α → Part α}
    (h : ∀ r, Part.Runs { rd := r, val := p.val, err := none } (f r p.val) fs write) : p.Runs (p.next f) fs write := by
  cases hp : p.err with
  | some c =>
    rw [next_of_err hp]
    exact ⟨by rw [hp, foldl_readChecked_some], fun he => absurd (hp.symm.trans he) (by simp)⟩
  | none =>
    rw [next_of_none hp]
    obtain ⟨hread, hval⟩ := h p.rd
    exact ⟨by rw [hread, hp], fun he => ⟨hp, (hval he).2⟩⟩

theorem Part.Runs.field (w : Nat) (write : α → α) (check : Option ErrCode) :
    p.Runs (p.field w write check) [(w, check)] write := .next fun _ => ⟨rfl, fun _ => ⟨rfl, rfl⟩⟩

theorem Part.Runs.foldl {f : Part α → β → Part α} {g : β → List CheckedField} {write : β → α → α}
    (h : ∀ p b, Part.Runs p (f p b) (g b) (write b)) (l : List β) :
    ∀ p : Part α, p.Runs (l.foldl f p) (l.flatMap g) (fun a => l.foldl (fun a b => write b a) a) := by
  induction l with
  | nil => exact .refl
  | cons b l ih => exact fun p => (h p b).trans (ih _)

end

/-! ### Checks and the first error of a list of them -/

theorem isNone_checkThat (ok : Bool) (c : ErrCode) : (checkThat ok c).isNone = ok := by cases ok <;> rfl

/-- A check that a number is in range. -/
theorem checkThat_lt (a n : Nat) (c : ErrCode) : checkThat (decide (a < n)) c = if n ≤ a then some c else none := by
  by_cases h : a < n
  · rw [decide_eq_true h, if_neg (Nat.not_le.2 h)]
    rfl
  · rw [decide_eq_false h, if_pos (Nat.not_lt.1 h)]
    rfl

/-- The first error of checks that raise one code. -/
theorem findSome?_ite_some {β γ : Type} (bad : β → Prop) [DecidablePred bad] (c : γ) (l : List β) :
    l.findSome? (fun b => if bad b then some c else none) = if ∃ b ∈ l, bad b then some c else none := by
  induction l with
  | nil => simp
  | cons b l ih =>
    by_cases hb : bad b
    · simp [hb]
    · simp [hb, ih]

theorem findSome?_flatMap {α β γ : Type} (g : β → List α) (f : α → Option γ) (l : List β) :
    (l.flatMap g).findSome? f = l.findSome? fun b => (g b).findSome? f := by
  induction l with
  | nil => rfl
  | cons b l ih =>
    rw [List.flatMap_cons, List.findSome?_append, ih, List.findSome?_cons]
    cases (g b).findSome? f <;> rfl

end Sys2Proof.Machine
end

section
/-! Mappings (42_headers.md R178 to R181). -/

namespace Sys2Proof.Machine

open Sys2Proof

/-! ### The fields and their checks -/

/-- Both channels of a coupling step are checked at once (42_headers.md R179). -/
def stepCheck (channels : Nat) (st : Nat × Nat) : Option ErrCode :=
  if st.1 = st.2 ∨ channels ≤ st.1 ∨ channels ≤ st.2 then some .mapCoupling else none

/-- The fields of a coupling step, checked after its angle (42_headers.md R179). -/
def stepFields (channels : Nat) (st : Nat × Nat) : List CheckedField :=
  [(couplingWidth channels, none), (couplingWidth channels, stepCheck channels st)]

/-- The fields of the coupling section (42_headers.md R179). -/
def couplingFields (channels : Nat) : Option (List (Nat × Nat)) → List CheckedField
  | none => [(1, none)]
  | some steps => [(1, none), (8, none)] ++ steps.flatMap (stepFields channels)

/-- Which of the fields of the coupling section pass their checks. -/
def couplingFieldsOk (channels : Nat) : Option (List (Nat × Nat)) → List Bool
  | none => [true]
  | some steps =>
    [true, true] ++ steps.flatMap fun st => [true, decide (st.1 ≠ st.2 ∧ st.1 < channels ∧ st.2 < channels)]

/-- The fields of a submap (42_headers.md R181). -/
def submapFields (nFloors nResidues : Nat) (sm : SubmapFields) : List CheckedField :=
  [(8, none), (8, checkThat (decide (sm.floor.toNat < nFloors)) .mapFloor),
    (8, checkThat (decide (sm.residue.toNat < nResidues)) .mapResidue)]

/-- The fields of a mapping with their checks (42_headers.md R178 to R181). -/
def mappingFields (channels nFloors nResidues : Nat) (f : MapFields) : List CheckedField :=
  [(16, none)] ++ (if f.submapsM1.isSome then [(1, none), (4, none)] else [(1, none)])
    ++ couplingFields channels f.coupling ++ [(2, checkThat (f.reserved == 0) .mapReserved)]
    ++ f.mux.map (fun v => (4, checkThat (decide (v.toNat < submapCount f.submapsM1)) .mapMux))
    ++ f.subs.flatMap (submapFields nFloors nResidues)

/-! ### What the meaning writes -/

/-- A coupling step is stored (42_headers.md R179). -/
def MappingConfig.pushStep (m : MappingConfig) (st : Nat × Nat) : MappingConfig :=
  { m with mag := m.mag ++ [st.1], ang := m.ang ++ [st.2] }

/-- The submap of one channel is stored (42_headers.md R180). -/
def MappingConfig.pushMux (m : MappingConfig) (v : BitVec 4) : MappingConfig := { m with mux := m.mux ++ [v.toNat] }

/-- The submap of each channel is stored, or 0 for each of them when there is one submap (42_headers.md R180). -/
def MappingConfig.setMux (channels : Nat) (mux : List (BitVec 4)) (m : MappingConfig) : MappingConfig :=
  { m with mux := if 1 < m.submaps then m.mux ++ mux.map BitVec.toNat else List.replicate channels 0 }

/-- The floor and the residue of a submap are stored (42_headers.md R181). -/
def MappingConfig.pushSub (m : MappingConfig) (sm : SubmapFields) : MappingConfig :=
  { m with subFloor := m.subFloor ++ [sm.floor.toNat], subResidue := m.subResidue ++ [sm.residue.toNat] }

theorem MappingConfig.foldl_pushStep (steps : List (Nat × Nat)) : ∀ m : MappingConfig,
    steps.foldl pushStep m = { m with mag := m.mag ++ steps.map Prod.fst, ang := m.ang ++ steps.map Prod.snd } := by
  induction steps with
  | nil => simp
  | cons st steps ih => simp [pushStep, ih]

theorem MappingConfig.foldl_pushMux (mux : List (BitVec 4)) : ∀ m : MappingConfig,
    mux.foldl pushMux m = { m with mux := m.mux ++ mux.map BitVec.toNat } := by
  induction mux with
  | nil => simp
  | cons v mux ih => simp [pushMux, ih]

theorem MappingConfig.foldl_pushSub (subs : List SubmapFields) : ∀ m : MappingConfig,
    subs.foldl pushSub m =
      { m with
        subFloor := m.subFloor ++ subs.map (fun sm => sm.floor.toNat)
        subResidue := m.subResidue ++ subs.map (fun sm => sm.residue.toNat) } := by
  induction subs with
  | nil => simp
  | cons sm subs ih => simp [pushSub, ih]

/-! ### What the meaning reads and checks -/

theorem mapSubmaps_runs (v : Option (BitVec 4)) (p : Part MappingConfig) :
    p.Runs (mapSubmaps v p) (if v.isSome then [(1, none), (4, none)] else [(1, none)])
      fun m => { m with submaps := submapCount v } :=
  .next fun r => by
    refine ⟨?_, fun _ => ⟨rfl, rfl⟩⟩
    dsimp only
    split <;> rfl

theorem mapStep_runs (channels : Nat) (p : Part MappingConfig) (st : Nat × Nat) :
    p.Runs (mapStep channels p st) (stepFields channels st) (.pushStep · st) :=
  .next fun r => by
    rw [stepFields, stepCheck]
    split_ifs
    · exact ⟨rfl, fun he => by cases he⟩
    · exact ⟨rfl, fun _ => ⟨rfl, rfl⟩⟩

theorem mapCoupling_runs (channels : Nat) (c : Option (List (Nat × Nat))) (p : Part MappingConfig) :
    p.Runs (mapCoupling channels c p) (couplingFields channels c)
      fun m => { m with
        couplingSteps := (c.getD []).length
        mag := m.mag ++ (c.getD []).map Prod.fst
        ang := m.ang ++ (c.getD []).map Prod.snd } := by
  cases c with
  | none =>
    rw [mapCoupling]
    exact .next fun _ => ⟨rfl, fun _ => ⟨rfl, by simp⟩⟩
  | some steps =>
    have hhead (p : Part MappingConfig) : p.Runs
        (p.next fun r m => { rd := r.skips [1, 8], val := { m with couplingSteps := steps.length }, err := none })
        [(1, none), (8, none)] fun m => { m with couplingSteps := steps.length } :=
      .next fun _ => ⟨rfl, fun _ => ⟨rfl, rfl⟩⟩
    have hruns := (hhead p).trans (.foldl (mapStep_runs channels) steps _)
    simp only [MappingConfig.foldl_pushStep] at hruns
    exact hruns

theorem mapMux_runs (channels : Nat) (reserved : BitVec 2) {mux : List (BitVec 4)} {p : Part MappingConfig} {n : Nat}
    (hn : p.val.submaps = n) (hmux : ¬ 1 < n → mux = []) :
    p.Runs (mapMux channels reserved mux p)
      ([(2, checkThat (reserved == 0) .mapReserved)] ++ mux.map (fun v => (4, checkThat (decide (v.toNat < n)) .mapMux)))
      (.setMux channels mux) := by
  subst hn
  refine (Part.Runs.field 2 id _).trans (write' := MappingConfig.setMux channels mux) (.next fun r => ?_)
  rw [field_id_val]
  by_cases h : 1 < p.val.submaps
  · have hset : mux.foldl MappingConfig.pushMux p.val = p.val.setMux channels mux := by
      rw [MappingConfig.foldl_pushMux, MappingConfig.setMux, if_pos h]
    rw [if_pos h, List.map_eq_flatMap]
    obtain ⟨hread, hval⟩ := Part.Runs.foldl (write := fun v => (MappingConfig.pushMux · v))
      (fun _ v => .field 4 _ (checkThat (decide (v.toNat < p.val.submaps)) .mapMux)) mux
      { rd := r, val := p.val, err := none }
    exact ⟨hread, fun he => ⟨rfl, (hval he).2.trans hset⟩⟩
  · rw [if_neg h, hmux h]
    exact ⟨rfl, fun _ => ⟨rfl, by rw [MappingConfig.setMux, if_neg h]⟩⟩

theorem mapSub_runs (nFloors nResidues : Nat) (p : Part MappingConfig) (sm : SubmapFields) :
    p.Runs (mapSub nFloors nResidues p sm) (submapFields nFloors nResidues sm) (.pushSub · sm) :=
  ((Part.Runs.field 8 id none).trans (.field 8 id _) |>.trans (.field 8 id _)).trans
    (.next (fs := []) (write := (MappingConfig.pushSub · sm)) fun _ => ⟨rfl, fun _ => ⟨rfl, rfl⟩⟩)

/-- The entry of a mapping with no failing check (42_headers.md R178 to R181). -/
def mappingEntry (channels : Nat) (f : MapFields) : MappingConfig where
  submaps := submapCount f.submapsM1
  couplingSteps := (f.coupling.getD []).length
  mag := (f.coupling.getD []).map Prod.fst
  ang := (f.coupling.getD []).map Prod.snd
  mux := if 1 < submapCount f.submapsM1 then f.mux.map BitVec.toNat else List.replicate channels 0
  subFloor := f.subs.map (fun sm => sm.floor.toNat)
  subResidue := f.subs.map (fun sm => sm.residue.toNat)

/-- A well-formed mapping is read, checked and written field by field. -/
theorem decodeMapping_runs {channels : Nat} (nFloors nResidues : Nat) {f : MapFields} (hwf : f.wf channels = true)
    (r : Reader) :
    Part.Runs { rd := r, val := .fresh, err := none } (decodeMapping channels nFloors nResidues f r)
      (mappingFields channels nFloors nResidues f) fun _ => mappingEntry channels f := by
  obtain ⟨-, hmuxLength, -⟩ := MapFields.wf_iff.1 hwf
  have hmux (h : ¬ 1 < submapCount f.submapsM1) : f.mux = [] :=
    List.length_eq_zero_iff.1 (hmuxLength.trans (if_neg h))
  have htype : Part.Runs { rd := r, val := MappingConfig.fresh, err := none }
      { rd := r.skip 16, val := .fresh, err := none } [(16, none)] id := ⟨rfl, fun _ => ⟨rfl, rfl⟩⟩
  have hruns := (htype.trans (mapSubmaps_runs f.submapsM1 _) |>.trans (mapCoupling_runs channels f.coupling _)).trans
    (mapMux_runs channels f.reserved (mapCoupling_submaps _ _ _) hmux) |>.trans
    (.foldl (mapSub_runs nFloors nResidues) f.subs _)
  simp only [MappingConfig.foldl_pushSub, ← List.append_assoc] at hruns
  exact ⟨hruns.1, fun he => ⟨rfl, (hruns.2 he).2⟩⟩

/-! ### The fields, their checks and the first error, as the statements say them -/

theorem couplingFields_widths (channels : Nat) (c : Option (List (Nat × Nat))) :
    (couplingFields channels c).map Prod.fst = couplingWidths channels c := by
  cases c with
  | none => rfl
  | some steps =>
    rw [couplingFields, List.map_append, List.map_flatMap, couplingWidths, ← flatMap_replicate_const]
    rfl

theorem mappingFields_widths (k channels nFloors nResidues : Nat) (f : MapFields) :
    (mappingFields channels nFloors nResidues f).map Prod.fst = fieldWidths (.mapping k channels) (.map0 f) := by
  have hsubs : f.subs.flatMap (fun _ => [8, 8, 8]) = List.replicate (3 * f.subs.length) 8 :=
    flatMap_replicate_const 3 8 f.subs
  have hsubmaps : (if f.submapsM1.isSome then [(1, none), (4, none)] else [(1, none)]).map
      (Prod.fst : CheckedField → Nat) = if f.submapsM1.isSome then [1, 4] else [1] := by split <;> rfl
  simp only [mappingFields, List.map_append, couplingFields_widths, hsubmaps, List.map_map, List.map_flatMap, fieldWidths]
  simp only [Function.comp_def, List.map_const', submapFields, List.map_cons, List.map_nil, hsubs]
  cases f.coupling <;> rfl

theorem couplingFields_ok (channels : Nat) (c : Option (List (Nat × Nat))) :
    (couplingFields channels c).map (fun fd => fd.2.isNone) = couplingFieldsOk channels c := by
  have hstep (st : Nat × Nat) :
      (stepCheck channels st).isNone = decide (st.1 ≠ st.2 ∧ st.1 < channels ∧ st.2 < channels) := by
    rw [stepCheck]
    split_ifs <;> simp <;> omega
  cases c with
  | none => rfl
  | some steps => simp [couplingFields, couplingFieldsOk, stepFields, List.map_flatMap, hstep]

theorem mappingFields_ok (channels nFloors nResidues : Nat) (f : MapFields) :
    (mappingFields channels nFloors nResidues f).map (fun fd => fd.2.isNone) =
      mappingFieldsOk channels nFloors nResidues f := by
  have hsubmaps : (if f.submapsM1.isSome then [(1, none), (4, none)] else [(1, none)]).map
      (fun fd : CheckedField => fd.2.isNone) = if f.submapsM1.isSome then [true, true] else [true] := by split <;> rfl
  simp only [mappingFields, List.map_append, couplingFields_ok, hsubmaps, List.map_map, List.map_flatMap, mappingFieldsOk]
  simp only [Function.comp_def, submapFields, List.map_cons, List.map_nil, isNone_checkThat]
  cases f.coupling <;> rfl

theorem couplingFields_error (channels : Nat) (c : Option (List (Nat × Nat))) :
    (couplingFields channels c).findSome? Prod.snd =
      if ∃ st ∈ c.getD [], st.1 = st.2 ∨ channels ≤ st.1 ∨ channels ≤ st.2 then some .mapCoupling else none := by
  have hstep (st : Nat × Nat) : (stepFields channels st).findSome? Prod.snd = stepCheck channels st := by
    rw [stepFields, stepCheck]
    split <;> rfl
  cases c with
  | none => simp [couplingFields]
  | some steps =>
    rw [couplingFields, List.findSome?_append, findSome?_flatMap]
    simp only [hstep]
    exact findSome?_ite_some _ _ steps

theorem submapFields_error (nFloors nResidues : Nat) (subs : List SubmapFields) :
    (subs.flatMap (submapFields nFloors nResidues)).findSome? Prod.snd =
      (subs.find? (fun sm => decide (nFloors ≤ sm.floor.toNat ∨ nResidues ≤ sm.residue.toNat))).map
        (fun sm => if nFloors ≤ sm.floor.toNat then .mapFloor else .mapResidue) := by
  rw [findSome?_flatMap]
  induction subs with
  | nil => rfl
  | cons sm subs ih =>
    rw [List.findSome?_cons, List.find?_cons, ih, submapFields, checkThat_lt, checkThat_lt]
    by_cases hfloor : nFloors ≤ sm.floor.toNat
    · simp [hfloor]
    · by_cases hresidue : nResidues ≤ sm.residue.toNat <;> simp [hfloor, hresidue]

theorem mappingFields_error (channels nFloors nResidues : Nat) (f : MapFields) :
    (mappingFields channels nFloors nResidues f).findSome? Prod.snd = mappingError channels nFloors nResidues f := by
  have hhead : ([(16, none)] ++ (if f.submapsM1.isSome then [(1, none), (4, none)] else [(1, none)])).findSome?
      (Prod.snd : CheckedField → _) = none := by split <;> rfl
  have hreserved : [(2, checkThat (f.reserved == 0) .mapReserved)].findSome? (Prod.snd : CheckedField → _) =
      if f.reserved ≠ 0 then some .mapReserved else none := by
    by_cases h : f.reserved = 0 <;> simp [checkThat, h]
  have hmux : (f.mux.map fun v => (4, checkThat (decide (v.toNat < submapCount f.submapsM1)) .mapMux)).findSome?
      (Prod.snd : CheckedField → _) =
      if ∃ v ∈ f.mux, submapCount f.submapsM1 ≤ v.toNat then some .mapMux else none := by
    rw [List.findSome?_map]
    simp only [Function.comp_def, checkThat_lt]
    convert findSome?_ite_some (fun v : BitVec 4 => submapCount f.submapsM1 ≤ v.toNat) _ f.mux
  rw [mappingFields, List.findSome?_append, List.findSome?_append, List.findSome?_append, List.findSome?_append, hhead,
    couplingFields_error, hreserved, hmux, submapFields_error, mappingError]
  split_ifs <;> rfl

/-- Settles O43: the unit ends with its first failing field, or the entry is the assembled one. -/
theorem mappingUnit : Obligations.MappingUnit := by
  unfold Obligations.MappingUnit
  intro f s hwf
  obtain ⟨hread, hval⟩ := decodeMapping_runs s.nFloors s.nResidues hwf s.reader
  rw [foldl_readChecked, mappingFields_widths s.mappings.length, mappingFields_ok, mappingFields_error] at hread
  obtain ⟨hrd, herr⟩ := Prod.mk.inj hread
  have hnarrow (hu : s.Unclamped) : Narrow (fieldWidths (.mapping s.mappings.length s.cfg.channels) (.map0 f)) :=
    fieldWidths_narrow hu rfl (.map0 _ _ f hwf) rfl
  rw [exec, execMap0]
  refine ⟨fun hnone => ?stored, fun c hsome => ?aborts⟩
  case stored =>
    rw [hnone] at herr
    have hall := decodeMapping_read hwf herr s.mappings.length
    simp only [herr, (hval herr).2]
    exact ⟨_, rfl, rfl, fun hi hu => readBy_of_skips _ (hnarrow hu) hall rfl rfl hi⟩
  case aborts =>
    simp only [herr, hsome]
    exact ⟨_, rfl, ⟨rfl, rfl, rfl⟩, rfl, ⟨_, rfl⟩,
      fun hi hu => readBy_of_skips _ ((hnarrow hu).take _) hrd rfl rfl hi⟩

end Sys2Proof.Machine
end

section
/-! The units of a codebook: its head, its length list, its lookup (43_codebook.md R210 to R215). -/

namespace Sys2Proof.Machine

open Sys2Proof

/-- Settles O19: the three fields of the head are read, and the new entry is appended. -/
theorem codebookHead : Obligations.CodebookHead := by
  unfold Obligations.CodebookHead
  intro dims entries s
  exact ⟨_, rfl, rfl, ⟨_, rfl, rfl, rfl⟩, fun hi => readBy_skips hi (by decide) rfl rfl⟩

section
variable {s : State} {books : List Codebook} {b : Codebook}

/-- A codebook unit that ends without an error: reads that end at `r`, the codebook under decode written, and the sequencer's next
place (43_codebook.md R210). -/
theorem withReader_modifyBook (h : s.codebooks = books ++ [b]) (r : Reader) (g : Codebook → Codebook) (q : Seq) :
    ∃ t, (Host.Outcome.next { (s.withReader r).modifyBook g with seq := q } : Host.Outcome State Fault Refusal) = .next t
      ∧ t = { s with pktBitpos := t.pktBitpos, warn := t.warn, seq := q, codebooks := books ++ [g b] }
      ∧ ∀ ws, r = s.reader.skips ws → Narrow ws → s.Inv → ReadBy s t ws := by
  rw [modifyBook_last (s := s.withReader r) h]
  exact ⟨_, rfl, rfl, fun ws hr hw => readBy_of_skips r hw hr rfl rfl⟩

end

/-- Settles O20: both lists write the length of each entry, and read the flags of the list and the fields of the entries. -/
theorem codebookLengths : Obligations.CodebookLengths := by
  unfold Obligations.CodebookLengths
  intro s books b h
  refine ⟨fun lens => ?dense, fun lens => ?sparse⟩
  case dense =>
    obtain ⟨t, ht, hframe, hread⟩ := withReader_modifyBook h ((s.reader.skips [1, 1]).skipEach 5 lens.length)
      (fun b => { b with len := lens.map (fun v => some (plusOne v)) }) .lookup
    refine ⟨t, ht, hframe, hread _ ?_ ((narrow_of_decide rfl).append (.replicate (by decide) _))⟩
    rw [Reader.skipEach_eq_skips, Reader.skips_append]
  case sparse =>
    obtain ⟨t, ht, hframe, hread⟩ := withReader_modifyBook h (sparseReads lens (s.reader.skips [1, 1]))
      (fun b => { b with len := lens.map (Option.map plusOne) }) .lookup
    refine ⟨t, ht, hframe, hread _ ?_ ((narrow_of_decide rfl).append (.flatMap fun _ => .ite (narrow_of_decide rfl)
      (narrow_of_decide rfl)))⟩
    rw [sparseReads_eq_skips, Reader.skips_append]

section
variable {s : State} {books : List Codebook} {b : Codebook}

/-- A lookup whose checks pass: the head, the number of values and the multiplicands are written, and read
(43_codebook.md R215). -/
theorem lookupVq_stored (h : s.codebooks = books ++ [b]) {ty : Nat} {f : VqFields} (hd : ¬ (ty = 1 ∧ b.dims = 0))
    (hlen : f.mult.length = lookupValueCount ty b.entries b.dims)
    (hfit : s.multStored + lookupValueCount ty b.entries b.dims ≤ s.params.maxMultiplicands) :
    ∃ t, lookupVq ty f s = .next t
      ∧ t = { s with
          pktBitpos := t.pktBitpos, warn := t.warn, seq := .huffBuild
          codebooks := books ++
            [{ vqHead ty f b with lookupValues := lookupValueCount ty b.entries b.dims, mult := f.mult }] }
      ∧ (s.Inv → ReadBy s t
          ([4, 32, 32, 4, 1] ++ List.replicate (lookupValueCount ty b.entries b.dims) (f.valueBitsM1.toNat + 1))) := by
  obtain ⟨t, ht, hframe, hread⟩ := withReader_modifyBook h
    ((s.reader.skips [4, 32, 32, 4, 1]).skipEach (plusOne f.valueBitsM1) f.mult.length)
    (fun b' => { vqHead ty f b' with lookupValues := lookupValueCount ty b.entries b.dims, mult := f.mult }) .huffBuild
  refine ⟨t, ?_, hframe, hlen ▸ hread _ ?_ (narrow_vq f)⟩
  · rw [lookupVq, (book_last h).1]
    exact (if_neg hd).trans ((if_neg (Nat.not_lt.2 hfit)).trans ht)
  · rw [Reader.skipEach_eq_skips, Reader.skips_append]
    rfl

end

/-- Settles O22: type 0 writes its type only, and a lookup whose checks pass is stored. -/
theorem lookupFields : Obligations.LookupFields := by
  unfold Obligations.LookupFields
  intro s books b h
  refine ⟨?none, fun f hd hlen hfit => ?implicit, fun f hlen hfit => ?explicit⟩
  case none =>
    obtain ⟨t, ht, hframe, hread⟩ := withReader_modifyBook h (s.reader.skips [4]) (fun b => { b with lookup := 0 }) .huffBuild
    exact ⟨t, ht, hframe, hread _ rfl (narrow_of_decide rfl)⟩
  case implicit =>
    exact lookupVq_stored (ty := 1) h (by omega) hlen hfit
  case explicit =>
    exact lookupVq_stored (ty := 2) h (by omega) hlen hfit

end Sys2Proof.Machine
end

section
/-! An ordered length list (43_codebook.md R214). -/

namespace Sys2Proof.Machine

open Sys2Proof

/-- The lengths of runs of the lengths `l`, `l + 1`, ... (43_codebook.md R214). -/
def runLengths (l : Nat) (counts : List Nat) : List (Option Nat) :=
  counts.zipIdx.flatMap (fun p => List.replicate p.1 (some (l + p.2)))

theorem runLengths_cons (l c : Nat) (cs : List Nat) :
    runLengths l (c :: cs) = List.replicate c (some l) ++ runLengths (l + 1) cs := by
  rw [runLengths, runLengths, List.zipIdx_cons', List.flatMap_cons, List.flatMap_map]
  simp only [Prod.map_fst, Prod.map_snd, id, Nat.add_zero, Nat.add_assoc, Nat.add_comm 1]

/-- Run counts that are as many as the list needs are all read; they end with all entries assigned, or with the error when they
do not make up the entries (43_codebook.md R214). -/
theorem orderedLoop_wf (entries : Nat) (counts : List Nat) : ∀ (fuel l : Nat) (r : Reader) (len : List (Option Nat)),
    l + fuel = 33 → len.length ≤ entries → orderedWf entries fuel len.length counts = true →
    (orderedLoop entries counts l r len).rd = r.skips (countWidths entries len.length counts)
      ∧ (len.length + total counts = entries →
        (orderedLoop entries counts l r len).err = none
          ∧ (orderedLoop entries counts l r len).val = len ++ runLengths l counts)
      ∧ (len.length + total counts ≠ entries → (orderedLoop entries counts l r len).err = some .cbOrdered) := by
  induction counts with
  | nil =>
    intro fuel l r len hl hle hwf
    have herr : (orderedLoop entries [] l r len).err = checkThat (decide (entries ≤ len.length)) .cbOrdered := rfl
    rw [total, Nat.add_zero, herr]
    refine ⟨rfl, fun htotal => ⟨?_, (List.append_nil len).symm⟩, fun htotal => ?_⟩
    · rw [decide_eq_true htotal.ge]
      rfl
    · rw [decide_eq_false (by omega)]
      rfl
  | cons c cs ih =>
    intro fuel l r len hl hle hwf
    cases fuel with
    | zero => cases hwf
    | succ fuel =>
      obtain ⟨hcur, -, hcs⟩ := orderedWf_cons.1 hwf
      rw [orderedLoop, if_neg (Nat.not_le.2 hcur), if_neg (by omega)]
      dsimp only
      by_cases hrun : entries < len.length + c
      · rw [if_pos hrun] at hcs ⊢
        subst hcs
        refine ⟨rfl, fun htotal => ?_, fun _ => rfl⟩
        rw [total, total] at htotal
        omega
      · rw [if_neg hrun] at hcs ⊢
        have hlen : (len ++ List.replicate c (some l)).length = len.length + c := by simp
        have h := ih fuel (l + 1) (r.skip (countWidth entries len.length)) (len ++ List.replicate c (some l)) (by omega)
          (by rw [hlen]; omega) (by rw [hlen]; exact hcs)
        rw [hlen, Nat.add_assoc, List.append_assoc, ← runLengths_cons] at h
        exact h

/-- Settles O21: the run counts are read, and make up the entries or do not. -/
theorem orderedLengths : Obligations.OrderedLengths := by
  unfold Obligations.OrderedLengths
  intro s books b init counts h hwf
  obtain ⟨hbook, hidx⟩ := book_last h
  have hinit := init.isLt
  obtain ⟨hrd, hall, hshort⟩ := orderedLoop_wf b.entries counts (32 - init.toNat) (plusOne init) (s.reader.skips [1, 5]) []
    (by rw [plusOne]; omega) (Nat.zero_le _) hwf
  rw [List.length_nil, Nat.zero_add] at hall hshort
  rw [← Reader.skips_append] at hrd
  have hnarrow (hu : s.Unclamped) : Narrow ([1, 5] ++ countWidths b.entries 0 counts) :=
    (narrow_of_decide rfl).append (countWidths_le (hu.entries b (by simp [h])) counts 0)
  rw [fieldWidths_cbLenOrdered]
  refine ⟨fun htotal => ?assigned, fun htotal => ?aborts⟩
  case assigned =>
    obtain ⟨herr, hval⟩ := hall htotal
    obtain ⟨t, ht, hframe, hread⟩ := withReader_modifyBook h (s.reader.skips ([1, 5] ++ countWidths b.entries 0 counts))
      (fun b => { b with len := runLengths (plusOne init) counts }) .lookup
    refine ⟨t, ?_, hframe, fun hi hu => hread _ rfl (hnarrow hu) hi⟩
    rw [exec, execCbLenOrdered, hbook]
    dsimp only
    rw [herr, hrd, hval]
    exact ht
  case aborts =>
    rw [exec, execCbLenOrdered, hbook, hidx]
    dsimp only
    rw [hshort htotal, modifyBook_last (s := s.withReader _) h]
    exact ⟨_, rfl, ⟨rfl, rfl, rfl⟩, rfl, ⟨_, rfl⟩, fun hi hu => readBy_of_skips _ (hnarrow hu) hrd rfl rfl hi⟩

end Sys2Proof.Machine
end

section
/-! `lookup1_values` (43_codebook.md R221). -/

namespace Sys2Proof

/-- The search keeps the root between `v` and `v + 2^b`. -/
theorem rootBits_bounds {entries dims : Nat} (b : Nat) : ∀ v : Nat, v ^ dims ≤ entries → entries < (v + 2 ^ b) ^ dims →
    rootBits entries dims b v ^ dims ≤ entries ∧ entries < (rootBits entries dims b v + 1) ^ dims := by
  induction b with
  | zero => exact fun v hlo hhi => ⟨hlo, hhi⟩
  | succ b ih =>
    intro v hlo hhi
    rw [rootBits]
    split
    · exact ih _ ‹_› (by rwa [Nat.add_assoc, ← Nat.two_mul, ← Nat.pow_succ'])
    · exact ih _ hlo (Nat.not_le.1 ‹_›)

theorem lt_two_pow_ilog_self (m : Nat) : m < 2 ^ ilog m := by
  rcases Nat.eq_zero_or_pos m with rfl | hm
  · decide
  · exact lt_two_pow_ilog hm

/-- The root of the entries at the dimension, from below and from above (43_codebook.md R221). -/
theorem lookup1Values_bounds (entries : Nat) {dims : Nat} (hd : 1 ≤ dims) :
    lookup1Values entries dims ^ dims ≤ entries ∧ entries < (lookup1Values entries dims + 1) ^ dims := by
  refine rootBits_bounds (ilog entries) 0 ?_ ?_
  · rw [Nat.zero_pow hd]
    exact Nat.zero_le _
  · rw [Nat.zero_add]
    exact (lt_two_pow_ilog_self entries).trans_le (Nat.le_self_pow (by omega) _)

theorem le_lookup1Values {entries dims v : Nat} (hd : 1 ≤ dims) (h : v ^ dims ≤ entries) : v ≤ lookup1Values entries dims :=
  Nat.lt_succ_iff.1 (lt_of_pow_lt_pow_left₀ dims (Nat.zero_le _) (h.trans_lt (lookup1Values_bounds entries hd).2))

end Sys2Proof

namespace Sys2Proof.Laws

/-- Settles O24: the search stops between the root and its successor. (`Sys2Proof.lookup1Values` is the model's function.) -/
theorem lookup1Values : Obligations.Lookup1Values := by
  unfold Obligations.Lookup1Values
  exact fun entries dims hd => ⟨(lookup1Values_bounds entries hd).1, fun _ => le_lookup1Values hd⟩

end Sys2Proof.Laws
end

section
/-! `float32_unpack` (43_codebook.md R220). -/

namespace Sys2Proof

/-- A rounded multiple of the unit is exact. -/
theorem RoundedAt.eq_of_multiple {x : ℚ} {q e : Nat} (h : RoundedAt x q e) {k : Nat} (hx : x = k * 2 ^ e) :
    x = q * 2 ^ e := by
  have hu : (0 : ℚ) < 2 ^ e := by positivity
  obtain ⟨hlo, hhi⟩ := h.bounds
  rw [hx] at hlo hhi ⊢
  have hlo' := le_of_mul_le_mul_right hlo hu
  have hhi' := le_of_mul_le_mul_right hhi hu
  have h1 : (q : ℚ) < k + 1 := by linarith
  have h2 : (k : ℚ) < q + 1 := by linarith
  have h1' : q < k + 1 := by exact_mod_cast h1
  have h2' : k < q + 1 := by exact_mod_cast h2
  rw [show k = q by omega]

/-- A number of at most 24 significant bits below the infinite ones is rounded to itself (00_scope.md R10). -/
theorem F32.round_exact (neg : Bool) {m : Nat} (hm : 0 < m) (hm24 : m < 2 ^ 24) {k : Nat} (hx : m * 2 ^ k < 2 ^ 277) :
    ∃ q e, F32.round neg m k = .fin neg q e ∧ q * 2 ^ e = m * 2 ^ k := by
  obtain ⟨q, e, hq, hlt, hge, hcases⟩ := F32.round_cases neg (k : Int) hm
  rw [zpow_natCast] at hq hlt hge
  have hunit : e ≤ k := by
    rcases hge with rfl | hge
    · exact Nat.zero_le k
    · have hle : 2 ^ (e + 23) ≤ m * 2 ^ k := by exact_mod_cast hge
      have hpow : 2 ^ (e + 23) < 2 ^ (k + 24) :=
        hle.trans_lt (by rw [Nat.pow_add, Nat.mul_comm]; exact (Nat.mul_lt_mul_left (by positivity)).2 hm24)
      have := (Nat.pow_lt_pow_iff_right (by decide)).1 hpow
      omega
  obtain ⟨j, rfl⟩ := Nat.exists_eq_add_of_le hunit
  have hexact := hq.eq_of_multiple (k := m * 2 ^ j) (by push_cast; ring)
  have hexact' : m * 2 ^ (e + j) = q * 2 ^ e := by exact_mod_cast hexact
  rcases hcases with ⟨-, -, hr⟩ | ⟨-, rfl, hr⟩ | ⟨hbig, -⟩
  · exact ⟨q, e, hr, hexact'.symm⟩
  · exact ⟨2 ^ 23, e + 1, hr, by rw [hexact']; ring⟩
  · rw [hexact'] at hx
    rcases hbig with he | ⟨rfl, rfl⟩
    · have hle : 2 ^ (e + 23) ≤ q * 2 ^ e := by
        have := hge.resolve_left (by omega)
        rw [hexact] at this
        exact_mod_cast this
      have := (Nat.pow_lt_pow_iff_right (by decide)).1 (hle.trans_lt hx)
      omega
    · rw [← Nat.pow_add] at hx
      exact absurd ((Nat.pow_lt_pow_iff_right (by decide)).1 hx) (by decide)

/-- A number below `2^23` units is rounded to the nearest multiple of the least unit, ties to even (00_scope.md R10). -/
theorem F32.round_subnormal (neg : Bool) {m : Nat} (hm : 0 < m) (hm23 : m < 2 ^ 23) {d : Nat} (hd : 0 < d) :
    F32.round neg m (-(d : Int)) = .fin neg (roundHalfEven m d) 0 := by
  have hlen : ilog m ≤ 23 := Machine.ilog_le_of_lt hm23
  have hexp : F32.roundExp (ilog m) (-(d : Int)) = 0 := max_eq_left (by omega)
  have hq : roundHalfEven m d < 2 ^ 24 := by
    have hlo := (roundHalfEven_spec m d).2.1
    have hd2 : 2 ≤ 2 ^ d := Nat.le_self_pow hd.ne' 2
    have : 2 * roundHalfEven m d * 2 ^ d ≤ (m + 1) * 2 ^ d := by nlinarith
    have := Nat.le_of_mul_le_mul_right this (by omega)
    omega
  have hdist : (0 : Int) - -(d : Int) = d := by omega
  simp only [F32.round, if_neg hm.ne', hexp, hdist]
  rw [if_neg (by omega : ¬ (d : Int) ≤ 0), Int.toNat_natCast, if_neg hq.ne]
  rfl

section
variable (x : BitVec 32)

/-- `float32_unpack` as the rounding of its mantissa at its exponent (43_codebook.md R220). -/
theorem float32Unpack_eq (hm : x.toNat % 2 ^ 21 ≠ 0) :
    float32Unpack x = F32.round x.msb (x.toNat % 2 ^ 21) (((x.toNat / 2 ^ 21 % 2 ^ 10 : Nat) : Int) - 639) := by
  have hexp (e : Nat) : (e : Int) - 788 + 149 = e - 639 := by omega
  rw [float32Unpack, BitVec.msb_eq_decide, ← hexp]
  exact if_neg hm

end

/-- Settles O25: exact or infinite from exponent 639 on, and below that rounded at the least unit. -/
theorem float32Unpacked : Obligations.Float32Unpacked := by
  unfold Obligations.Float32Unpacked
  intro x
  have hlt : x.toNat % 2 ^ 21 < 2 ^ 21 := Nat.mod_lt _ (by decide)
  have heq := float32Unpack_eq x
  have hzero : x.toNat % 2 ^ 21 = 0 → float32Unpack x = F32.zero := fun hm => by rw [float32Unpack, if_pos hm]
  generalize x.toNat % 2 ^ 21 = m at *
  generalize x.toNat / 2 ^ 21 % 2 ^ 10 = e at *
  refine ⟨hzero, fun hm he => ?large, fun hm he => ?small, ?canonical⟩
  case large =>
    obtain ⟨k, rfl⟩ := Nat.exists_eq_add_of_le he
    rw [heq hm, show ((639 + k : Nat) : Int) - 639 = k by omega, Nat.add_sub_cancel_left]
    refine ⟨fun hinf => (F32.round_spec x.msb k (by omega)).2.1 ?_, F32.round_exact x.msb (by omega) (by omega)⟩
    have hinf' : (2 ^ 277 : ℚ) ≤ m * 2 ^ k := by exact_mod_cast hinf
    rw [zpow_natCast]
    exact hinf'.trans' (by rw [show 277 = 25 + 252 from rfl, pow_add]; gcongr; norm_num)
  case small =>
    obtain ⟨d, hd⟩ := Nat.exists_eq_add_of_lt he
    rw [heq hm, show (e : Int) - 639 = -((639 - e : Nat) : Int) by omega]
    exact ⟨_, F32.round_subnormal x.msb (by omega) (by omega) (by omega), roundHalfEven_spec m (639 - e)⟩
  case canonical =>
    rcases Nat.eq_zero_or_pos m with hm | hm
    · rw [hzero hm]
      rfl
    · rw [heq hm.ne']
      exact (F32.round_spec x.msb _ hm).1

end Sys2Proof
end

section
/-! What placing a codeword does to a tree: where every bit string leads afterwards (43_codebook.md R222, R224). -/

namespace Sys2Proof.Machine

open Sys2Proof

/-! ### The value of a codeword -/

theorem codeValue_cons (b : Bool) (x : List Bool) : codeValue (b :: x) = b.toNat * 2 ^ x.length + codeValue x := by
  have key : ∀ (x : List Bool) (v : Nat), x.foldl (fun v b => 2 * v + b.toNat) v = v * 2 ^ x.length + codeValue x := by
    intro x
    induction x with
    | nil => simp [codeValue]
    | cons b x ih =>
      intro v
      rw [codeValue, List.foldl_cons, List.foldl_cons, ih, ih, List.length_cons, Nat.pow_succ]
      ring
  rw [codeValue, List.foldl_cons, key, Nat.mul_zero, Nat.zero_add]

theorem codeValue_lt (x : List Bool) : codeValue x < 2 ^ x.length := by
  induction x with
  | nil => decide
  | cons b x ih =>
    have hb := b.toNat_le
    rw [codeValue_cons, List.length_cons, Nat.pow_succ]
    nlinarith

/-- Of two strings of one length that begin with one bit, the rest decides. -/
theorem codeValue_cons_le (b : Bool) {c x : List Bool} (hlen : x.length = c.length) (h : codeValue c ≤ codeValue x) :
    codeValue (b :: c) ≤ codeValue (b :: x) := by
  rw [codeValue_cons, codeValue_cons, hlen]
  exact Nat.add_le_add_left h _

/-- Of two strings of one length, the one that begins with 0 is less. -/
theorem codeValue_false_le_true {c x : List Bool} (hlen : x.length = c.length) :
    codeValue (false :: c) ≤ codeValue (true :: x) := by
  have h := codeValue_lt c
  rw [codeValue_cons, codeValue_cons, hlen, Bool.toNat_false, Bool.toNat_true]
  omega

/-! ### Where a bit string leads -/

/-- Where a bit string leads: left on 0 and right on 1, to the end of the string or to a leaf, as a decode walks
(43_codebook.md R225). -/
def HuffTree.lead : HuffTree → List Bool → HuffTree
  | .absent, _ => .absent
  | .leaf e, _ => .leaf e
  | .node l r, [] => .node l r
  | .node l _, false :: x => l.lead x
  | .node _ r, true :: x => r.lead x

@[simp] theorem HuffTree.lead_absent (x : List Bool) : HuffTree.absent.lead x = .absent := by cases x <;> rfl
@[simp] theorem HuffTree.lead_leaf (e : Nat) (x : List Bool) : (HuffTree.leaf e).lead x = .leaf e := by cases x <;> rfl
@[simp] theorem HuffTree.lead_node_nil (l r : HuffTree) : (HuffTree.node l r).lead [] = .node l r := rfl
@[simp] theorem HuffTree.lead_node_false (l r : HuffTree) (x : List Bool) :
    (HuffTree.node l r).lead (false :: x) = l.lead x := rfl
@[simp] theorem HuffTree.lead_node_true (l r : HuffTree) (x : List Bool) :
    (HuffTree.node l r).lead (true :: x) = r.lead x := rfl

@[simp] theorem HuffTree.lead_nil (t : HuffTree) : t.lead [] = t := by cases t <;> rfl

/-- The bit strings of the nodes of a tree (43_codebook.md R224). -/
def HuffTree.paths : HuffTree → List (List Bool)
  | .absent => []
  | .leaf _ => [[]]
  | .node l r => [] :: (l.paths.map (List.cons false) ++ r.paths.map (List.cons true))

theorem HuffTree.paths_length (t : HuffTree) : t.paths.length = t.nodeCount := by
  induction t with
  | absent => rfl
  | leaf e => rfl
  | node l r ihl ihr =>
    rw [paths, nodeCount, List.length_cons, List.length_append, List.length_map, List.length_map, ihl, ihr]
    omega

theorem HuffTree.paths_nodup (t : HuffTree) : t.paths.Nodup := by
  induction t with
  | absent => exact List.nodup_nil
  | leaf e => exact List.nodup_singleton _
  | node l r ihl ihr =>
    refine List.nodup_cons.2 ⟨by simp, List.Nodup.append (ihl.map List.cons_injective) (ihr.map List.cons_injective) ?_⟩
    intro x hl hr
    obtain ⟨y, -, rfl⟩ := List.mem_map.1 hl
    obtain ⟨z, -, hz⟩ := List.mem_map.1 hr
    cases hz

/-! ### Placing a codeword -/

/-- Entry `e` is placed at the leftmost free position: at the codeword `c`, with the nodes above it (43_codebook.md R222). -/
inductive HuffTree.PlacedAt (e : Nat) : HuffTree → HuffTree → List Bool → Prop
  | here : PlacedAt e .absent (.leaf e) []
  | new {t : HuffTree} {c : List Bool} : PlacedAt e .absent t c → PlacedAt e .absent (.node t .absent) (false :: c)
  | left {l l' r : HuffTree} {c : List Bool} : PlacedAt e l l' c → PlacedAt e (.node l r) (.node l' r) (false :: c)
  | right {l r r' : HuffTree} {c : List Bool} : l.insert e c.length = none → PlacedAt e r r' c →
      PlacedAt e (.node l r) (.node l r') (true :: c)

theorem HuffTree.placedAt_of_insert (e k : Nat) : ∀ {t t' : HuffTree} {c : List Bool},
    t.insert e k = some (t', c) → PlacedAt e t t' c ∧ c.length = k := by
  induction k with
  | zero =>
    intro t t' c h
    cases t with
    | absent =>
      cases h
      exact ⟨.here, rfl⟩
    | leaf i => cases h
    | node l r => cases h
  | succ k ih =>
    intro t t' c h
    cases t with
    | leaf i => cases h
    | absent =>
      rw [insert] at h
      split at h
      · cases h
        obtain ⟨hp, hlen⟩ := ih ‹_›
        exact ⟨.new hp, congrArg (· + 1) hlen⟩
      · cases h
    | node l r =>
      rw [insert] at h
      split at h
      · cases h
        obtain ⟨hp, hlen⟩ := ih ‹_›
        exact ⟨.left hp, congrArg (· + 1) hlen⟩
      · split at h
        · cases h
          obtain ⟨hp, hlen⟩ := ih ‹_›
          exact ⟨.right (by rwa [hlen]) hp, congrArg (· + 1) hlen⟩
        · cases h

/-- Below a place that is not there every length is free. -/
theorem HuffTree.insert_absent_ne_none (e k : Nat) : HuffTree.absent.insert e k ≠ none := by
  induction k with
  | zero => exact Option.some_ne_none _
  | succ k ih =>
    rw [insert]
    split
    · exact Option.some_ne_none _
    · exact absurd ‹_› ih

/-- Nothing is placed only when no string of the length is free (43_codebook.md R222). -/
theorem HuffTree.lead_of_insert_none (e k : Nat) : ∀ {t : HuffTree}, t.insert e k = none →
    ∀ x : List Bool, x.length = k → t.lead x ≠ .absent := by
  induction k with
  | zero =>
    intro t h x hx
    rw [List.eq_nil_of_length_eq_zero hx, lead_nil]
    rintro rfl
    cases h
  | succ k ih =>
    intro t h x hx
    cases t with
    | absent => exact absurd h (insert_absent_ne_none e (k + 1))
    | leaf i => simp
    | node l r =>
      rw [insert] at h
      split at h
      · cases h
      · split at h
        · cases h
        · match x with
          | false :: x => exact ih ‹_› x (Nat.succ.inj hx)
          | true :: x => exact ih ‹_› x (Nat.succ.inj hx)

section
variable {e : Nat} {t t' : HuffTree} {c : List Bool}

/-- The codeword is free before. -/
theorem HuffTree.PlacedAt.lead_codeword (h : PlacedAt e t t' c) : t.lead c = .absent := by
  induction h with
  | here => rfl
  | new => rfl
  | left _ ih => exact ih
  | right _ _ ih => exact ih

/-- Afterwards the strings are free that were, but for the codeword, its prefixes and what continues it. -/
theorem HuffTree.PlacedAt.lead_eq_absent (h : PlacedAt e t t' c) : ∀ x : List Bool,
    t'.lead x = .absent ↔ t.lead x = .absent ∧ ¬ c <+: x ∧ ¬ x <+: c := by
  induction h with
  | here => simp
  | new _ ih => rintro (_ | ⟨_ | _, x⟩) <;> simp [ih]
  | left _ ih => rintro (_ | ⟨_ | _, x⟩) <;> simp [ih]
  | right _ _ ih => rintro (_ | ⟨_ | _, x⟩) <;> simp [ih]

/-- Afterwards the codeword and what continues it lead to the entry, and no other string to another leaf than before. -/
theorem HuffTree.PlacedAt.lead_eq_leaf (h : PlacedAt e t t' c) (i : Nat) : ∀ x : List Bool,
    t'.lead x = .leaf i ↔ t.lead x = .leaf i ∨ i = e ∧ c <+: x := by
  induction h with
  | here => simp [eq_comm]
  | new _ ih => rintro (_ | ⟨_ | _, x⟩) <;> simp [ih]
  | left _ ih => rintro (_ | ⟨_ | _, x⟩) <;> simp [ih]
  | right _ _ ih => rintro (_ | ⟨_ | _, x⟩) <;> simp [ih]

/-- Afterwards the nodes are those there were, and the prefixes of the codeword (43_codebook.md R224). -/
theorem HuffTree.PlacedAt.mem_paths (h : PlacedAt e t t' c) : ∀ x : List Bool, x ∈ t'.paths ↔ x ∈ t.paths ∨ x <+: c := by
  induction h with
  | here => simp [paths]
  | new _ ih =>
    simp only [paths, List.not_mem_nil, false_or] at ih
    rintro (_ | ⟨_ | _, x⟩) <;> simp [paths, ih]
  | left _ ih => rintro (_ | ⟨_ | _, x⟩) <;> simp [paths, ih]
  | right _ _ ih => rintro (_ | ⟨_ | _, x⟩) <;> simp [paths, ih]

/-- The codeword is the least free string of its length (43_codebook.md R222). -/
theorem HuffTree.PlacedAt.codeValue_le (h : PlacedAt e t t' c) : ∀ x : List Bool, x.length = c.length → t.lead x = .absent →
    codeValue c ≤ codeValue x := by
  induction h with
  | here => exact fun _ _ _ => Nat.zero_le _
  | new _ ih =>
    rintro (_ | ⟨_ | _, x⟩) hlen hx
    · cases hlen
    · exact codeValue_cons_le false (Nat.succ.inj hlen) (ih x (Nat.succ.inj hlen) (HuffTree.lead_absent x))
    · exact codeValue_false_le_true (Nat.succ.inj hlen)
  | left _ ih =>
    rintro (_ | ⟨_ | _, x⟩) hlen hx
    · cases hlen
    · exact codeValue_cons_le false (Nat.succ.inj hlen) (ih x (Nat.succ.inj hlen) hx)
    · exact codeValue_false_le_true (Nat.succ.inj hlen)
  | right hl _ ih =>
    rintro (_ | ⟨_ | _, x⟩) hlen hx
    · cases hlen
    · exact absurd hx (HuffTree.lead_of_insert_none e _ hl x (Nat.succ.inj hlen))
    · exact codeValue_cons_le true (Nat.succ.inj hlen) (ih x (Nat.succ.inj hlen) hx)

end

end Sys2Proof.Machine
end

section
/-! The codewords of a list of lengths, and the tree they make (43_codebook.md R222 to R224). -/

namespace Sys2Proof.Machine

open Sys2Proof

/-! ### Free strings -/

/-- A string that is free in the tree before the first entry of a list, and among the codewords of that list's entries before
`e` (43_codebook.md R222). -/
def HuffTree.freeAfter (t : HuffTree) (code : List (Option (List Bool))) (e : Nat) (x : List Bool) : Prop :=
  t.lead x = .absent ∧ freeBefore code e x

theorem freeBefore_zero (code : List (Option (List Bool))) (x : List Bool) : freeBefore code 0 x :=
  fun _ hk => absurd hk (Nat.not_lt_zero _)

theorem freeBefore_cons (o : Option (List Bool)) (code : List (Option (List Bool))) (e : Nat) (x : List Bool) :
    freeBefore (o :: code) (e + 1) x ↔ (∀ c, o = some c → ¬ c <+: x ∧ ¬ x <+: c) ∧ freeBefore code e x := by
  refine ⟨fun h => ⟨fun c hc => h 0 (Nat.succ_pos e) c (by rw [hc]; rfl), fun k hk => h (k + 1) (Nat.succ_lt_succ hk)⟩,
    fun ⟨h0, h⟩ k hk c hc => ?_⟩
  cases k with
  | zero => exact h0 c (Option.some.inj hc)
  | succ k => exact h k (Nat.lt_of_succ_lt_succ hk) c hc

theorem HuffTree.freeAfter_zero (t : HuffTree) (code : List (Option (List Bool))) (x : List Bool) :
    t.freeAfter code 0 x ↔ t.lead x = .absent := and_iff_left (freeBefore_zero code x)

theorem HuffTree.freeAfter_unused (t : HuffTree) (code : List (Option (List Bool))) (e : Nat) (x : List Bool) :
    t.freeAfter (none :: code) (e + 1) x ↔ t.freeAfter code e x := by
  simp [freeAfter, freeBefore_cons]

/-- What is free after a codeword is placed is free in the tree that it makes. -/
theorem HuffTree.PlacedAt.freeAfter_iff {i : Nat} {t t' : HuffTree} {c : List Bool} (h : PlacedAt i t t' c)
    (code : List (Option (List Bool))) (e : Nat) (x : List Bool) :
    t.freeAfter (some c :: code) (e + 1) x ↔ t'.freeAfter code e x := by
  simp [freeAfter, freeBefore_cons, h.lead_eq_absent, and_assoc]

theorem HuffTree.lead_root {x : List Bool} : root.lead x = .absent ↔ x ≠ [] := by
  match x with
  | [] => simp [root]
  | false :: x => simp [root]
  | true :: x => simp [root]

/-- In the empty tree every string but the empty one is free. -/
theorem HuffTree.freeAfter_root (code : List (Option (List Bool))) (e : Nat) {x : List Bool} (hx : x ≠ []) :
    root.freeAfter code e x ↔ freeBefore code e x := and_iff_right (lead_root.2 hx)

/-! ### The placement, entry by entry -/

/-- From entry `e` and the tree `t` on, the lengths `ls` make the tree `t'` and the codewords `code`, of all used entries or of
those before the first that has no place (43_codebook.md R222). -/
inductive Coded : Nat → HuffTree → List (Option Nat) → HuffTree → List (Option (List Bool)) → Bool → Prop
  | done (e : Nat) (t : HuffTree) : Coded e t [] t [] true
  | unused {e : Nat} {t t' : HuffTree} {ls : List (Option Nat)} {code : List (Option (List Bool))} {ok : Bool} :
      Coded (e + 1) t ls t' code ok → Coded e t (none :: ls) t' (none :: code) ok
  | used {e : Nat} {t u t' : HuffTree} {c : List Bool} {ls : List (Option Nat)} {code : List (Option (List Bool))} {ok : Bool} :
      HuffTree.PlacedAt e t u c → Coded (e + 1) u ls t' code ok →
      Coded e t (some c.length :: ls) t' (some c :: code) ok
  | stops {e : Nat} {t : HuffTree} {l : Nat} {ls : List (Option Nat)} : t.insert e l = none →
      Coded e t (some l :: ls) t [] false

theorem coded_placeCodes (ls : List (Option Nat)) : ∀ (e : Nat) (t : HuffTree),
    Coded e t ls (placeCodes e t ls).tree (placeCodes e t ls).code (placeCodes e t ls).complete := by
  induction ls with
  | nil => exact .done
  | cons o ls ih =>
    intro e t
    match o with
    | none => exact .unused (ih (e + 1) t)
    | some l =>
      rw [placeCodes]
      split
      · exact .stops ‹_›
      · obtain ⟨hp, rfl⟩ := HuffTree.placedAt_of_insert e l ‹_›
        exact .used hp (ih (e + 1) _)

/-- A codeword that a string continues is the first entry's, or one of the others'. -/
theorem exists_codeword_cons (o : Option (List Bool)) (code : List (Option (List Bool))) (e i : Nat) (x : List Bool) :
    (∃ j c, i = e + j ∧ (o :: code)[j]? = some (some c) ∧ c <+: x)
      ↔ (∃ c, o = some c ∧ i = e ∧ c <+: x) ∨ ∃ j c, i = e + 1 + j ∧ code[j]? = some (some c) ∧ c <+: x := by
  constructor
  · rintro ⟨_ | j, c, hi, hc, hx⟩
    · exact .inl ⟨c, Option.some.inj hc, hi, hx⟩
    · exact .inr ⟨j, c, by omega, hc, hx⟩
  · rintro (⟨c, hc, hi, hx⟩ | ⟨j, c, hi, hc, hx⟩)
    · exact ⟨0, c, hi, congrArg some hc, hx⟩
    · exact ⟨j + 1, c, by omega, hc, hx⟩

section
variable {e : Nat} {t t' : HuffTree} {ls : List (Option Nat)} {code : List (Option (List Bool))} {ok : Bool}

/-- A codeword has the length of its entry, and is the least string of that length that is free before it
(43_codebook.md R222). -/
theorem Coded.least (h : Coded e t ls t' code ok) : ∀ (i l : Nat) (c : List Bool), ls[i]? = some (some l) →
    code[i]? = some (some c) →
    c.length = l ∧ t.freeAfter code i c ∧ ∀ x : List Bool, x.length = l → t.freeAfter code i x → codeValue c ≤ codeValue x := by
  induction h with
  | done | stops => exact fun _ _ _ _ hc => by cases hc
  | unused _ ih =>
    intro i l c hl hc
    cases i with
    | zero => cases hl
    | succ i =>
      simp only [HuffTree.freeAfter_unused]
      exact ih i l c hl hc
  | used hp _ ih =>
    intro i l c hl hc
    cases i with
    | zero =>
      cases hl
      cases hc
      exact ⟨rfl, (HuffTree.freeAfter_zero _ _ _).2 hp.lead_codeword,
        fun x hx hfree => hp.codeValue_le x hx ((HuffTree.freeAfter_zero _ _ x).1 hfree)⟩
    | succ i =>
      simp only [hp.freeAfter_iff]
      exact ih i l c hl hc

/-- Of the entries that were come to, those have no codeword that are unused. -/
theorem Coded.none_iff (h : Coded e t ls t' code ok) : ∀ i < code.length, (code[i]? = some none ↔ ls[i]? = some none) := by
  induction h with
  | done | stops => exact fun _ hi => absurd hi (Nat.not_lt_zero _)
  | unused _ ih =>
    intro i hi
    cases i with
    | zero => exact iff_of_true rfl rfl
    | succ i => exact ih i (Nat.lt_of_succ_lt_succ hi)
  | used _ _ ih =>
    intro i hi
    cases i with
    | zero => simp
    | succ i => exact ih i (Nat.lt_of_succ_lt_succ hi)

theorem Coded.length_eq (h : Coded e t ls t' code ok) (hok : ok = true) : code.length = ls.length := by
  induction h with
  | done => rfl
  | stops => cases hok
  | unused _ ih | used _ _ ih => exact congrArg (· + 1) (ih hok)

/-- The placement stops only at a used entry with no free string of its length (43_codebook.md R222). -/
theorem Coded.stop (h : Coded e t ls t' code ok) (hok : ok = false) : ∃ l, ls[code.length]? = some (some l)
    ∧ ∀ x : List Bool, x.length = l → ¬ t.freeAfter code code.length x := by
  induction h with
  | done => cases hok
  | stops hnone => exact ⟨_, rfl, fun x hx hfree => HuffTree.lead_of_insert_none _ _ hnone x hx hfree.1⟩
  | unused _ ih =>
    obtain ⟨l, hl, hfull⟩ := ih hok
    exact ⟨l, hl, fun x hx hfree => hfull x hx ((HuffTree.freeAfter_unused _ _ _ x).1 hfree)⟩
  | used hp _ ih =>
    obtain ⟨l, hl, hfull⟩ := ih hok
    exact ⟨l, hl, fun x hx hfree => hfull x hx ((hp.freeAfter_iff _ _ x).1 hfree)⟩

/-- In the tree made, a string leads nowhere when it is free after all codewords. -/
theorem Coded.lead_eq_absent (h : Coded e t ls t' code ok) (x : List Bool) :
    t'.lead x = .absent ↔ t.freeAfter code code.length x := by
  induction h with
  | done | stops => exact (HuffTree.freeAfter_zero _ _ x).symm
  | unused _ ih => exact ih.trans (HuffTree.freeAfter_unused _ _ _ x).symm
  | used hp _ ih => exact ih.trans (hp.freeAfter_iff _ _ x).symm

/-- In the tree made, a string leads to the entry whose codeword it continues. -/
theorem Coded.lead_eq_leaf (h : Coded e t ls t' code ok) (i : Nat) (x : List Bool) :
    t'.lead x = .leaf i ↔ t.lead x = .leaf i ∨ ∃ j c, i = e + j ∧ code[j]? = some (some c) ∧ c <+: x := by
  induction h with
  | done | stops => simp
  | unused _ ih =>
    rw [ih, exists_codeword_cons]
    simp
  | used hp _ ih =>
    rw [ih, hp.lead_eq_leaf, exists_codeword_cons, or_assoc]
    simp

/-- The nodes of the tree made are those there were, and the prefixes of the codewords (43_codebook.md R224). -/
theorem Coded.mem_paths (h : Coded e t ls t' code ok) (x : List Bool) :
    x ∈ t'.paths ↔ x ∈ t.paths ∨ ∃ c, some c ∈ code ∧ x <+: c := by
  induction h with
  | done | stops => simp
  | unused _ ih => simp [ih]
  | used hp _ ih => simp [ih, hp.mem_paths, or_assoc]

end

/-- Settles O27, by the placement from the empty tree. -/
theorem huffmanPlacement : Obligations.HuffmanPlacement := by
  unfold Obligations.HuffmanPlacement
  intro lens hlens
  have hcoded := coded_placeCodes lens 0 HuffTree.root
  have hfree {l e : Nat} (hl : lens[e]? = some (some l)) (i : Nat) {x : List Bool} (hx : x.length = l) :=
    HuffTree.freeAfter_root (placeCodes 0 HuffTree.root lens).code i
      (List.length_pos_iff.1 (hx ▸ hlens (some l) (List.mem_of_getElem? hl) l rfl))
  refine ⟨fun e l c hl hc => ?least, hcoded.none_iff, hcoded.length_eq, fun hstop => ?stop⟩
  case least =>
    obtain ⟨hlen, hc, hle⟩ := hcoded.least e l c hl hc
    exact ⟨hlen, (hfree hl e hlen).1 hc, fun x hx hx' => hle x hx ((hfree hl e hx).2 hx')⟩
  case stop =>
    obtain ⟨l, hl, hfull⟩ := hcoded.stop hstop
    exact ⟨l, hl, fun x hx hx' => hfull x hx ((hfree hl _ hx).2 hx')⟩

end Sys2Proof.Machine
end

section
/-! The walk of a tree (43_codebook.md R225). -/

namespace Sys2Proof.Machine

open Sys2Proof

/-! ### The bits that come next -/

theorem packetBit_past_end {bytes : List Byte} {p : Nat} (h : 8 * bytes.length ≤ p) : packetBit bytes p = false := by
  rw [packetBit_eq_testBit, decide_eq_false (Nat.not_lt.2 h), Bool.false_and]

/-- The bits that come next are the one at the cursor and those after it is read, zeros past the packet's end
(41_bitreader.md R154). -/
theorem Reader.bits_succ (r : Reader) (n : Nat) : r.bits (n + 1) = packetBit r.bytes r.pos :: (r.skip 1).bits n := by
  rw [bits, bits, List.range_succ_eq_map, List.map_cons, List.map_map]
  refine congrArg₂ _ rfl (List.map_congr_left fun k _ => ?_)
  rw [skip_bytes, skip_pos, Function.comp_apply, Nat.min_eq_left (by decide : 1 ≤ 32)]
  rcases Nat.lt_or_ge r.pos (8 * r.bytes.length) with h | h
  · rw [Nat.min_eq_left (by rw [avail]; omega), Nat.succ_eq_add_one, Nat.add_assoc, Nat.add_comm 1]
  · rw [packetBit_past_end (by omega), packetBit_past_end (by omega)]

theorem Reader.bits_length (r : Reader) (n : Nat) : (r.bits n).length = n := by rw [bits, List.length_map, List.length_range]

theorem Reader.take_bits (r : Reader) {m n : Nat} (h : m ≤ n) : (r.bits n).take m = r.bits m := by
  rw [bits, bits, ← List.map_take, List.take_range, Nat.min_eq_left h]

/-- A string that what comes continues is what comes, as far as it goes. -/
theorem Reader.bits_of_prefix {r : Reader} {c : List Bool} {n : Nat} (h : c <+: r.bits n) : r.bits c.length = c := by
  rw [← r.take_bits (r.bits_length n ▸ h.length_le)]
  exact (List.prefix_iff_eq_take.1 h).symm

/-! ### The walk -/

/-- The walk goes left on 0 and right on 1 (43_codebook.md R225). -/
theorem HuffTree.walk_node (b : Nat) (l g : HuffTree) (r : Reader) :
    (HuffTree.node l g).walk b r = (if packetBit r.bytes r.pos then g else l).walk b (r.skip 1) := by
  have hbit : (r.readBits 1).1 = (packetBit r.bytes r.pos).toNat := by
    rw [Reader.readBits_fst]
    rfl
  rw [walk, hbit]
  cases packetBit r.bytes r.pos <;> rfl

theorem HuffTree.lead_bits_succ (l g : HuffTree) (r : Reader) (n : Nat) :
    (HuffTree.node l g).lead (r.bits (n + 1)) = (if packetBit r.bytes r.pos then g else l).lead ((r.skip 1).bits n) := by
  rw [Reader.bits_succ]
  cases packetBit r.bytes r.pos <;> rfl

/-- The walk ends with the first bits that lead to a leaf, or to a place that is not there (43_codebook.md R225): these are the
next `n` bits. -/
def HuffTree.WalkEnds (b : Nat) (t : HuffTree) (r : Reader) (n : Nat) : Prop :=
  ((∃ e, t.lead (r.bits n) = .leaf e ∧ t.walk b r = .ok e (r.skipEach 1 n))
      ∨ t.lead (r.bits n) = .absent ∧ t.walk b r = .bad .huffInvalid b (r.skipEach 1 n))
    ∧ ∀ m < n, ∃ l g, t.lead (r.bits m) = .node l g

theorem HuffTree.WalkEnds.node {b n : Nat} {l g : HuffTree} {r : Reader}
    (h : (if packetBit r.bytes r.pos then g else l).WalkEnds b (r.skip 1) n) : (HuffTree.node l g).WalkEnds b r (n + 1) := by
  obtain ⟨hend, hnodes⟩ := h
  rw [WalkEnds, walk_node, lead_bits_succ]
  refine ⟨hend, fun m hm => ?_⟩
  cases m with
  | zero => exact ⟨l, g, rfl⟩
  | succ m =>
    rw [lead_bits_succ]
    exact hnodes m (Nat.lt_of_succ_lt_succ hm)

theorem HuffTree.exists_walkEnds (b : Nat) (t : HuffTree) : ∀ r : Reader, ∃ n, t.WalkEnds b r n := by
  induction t with
  | absent => exact fun r => ⟨0, .inr ⟨rfl, rfl⟩, fun _ h => absurd h (Nat.not_lt_zero _)⟩
  | leaf e => exact fun r => ⟨0, .inl ⟨e, rfl, rfl⟩, fun _ h => absurd h (Nat.not_lt_zero _)⟩
  | node l g ihl ihg =>
    intro r
    obtain ⟨n, h⟩ : ∃ n, (if packetBit r.bytes r.pos then g else l).WalkEnds b (r.skip 1) n := by
      split
      · exact ihg (r.skip 1)
      · exact ihl (r.skip 1)
    exact ⟨n + 1, h.node⟩

/-! ### The walk of a built tree -/

section
variable {lens : List (Option Nat)} {t : HuffTree} {code : List (Option (List Bool))} {ok : Bool}

/-- In a built tree the strings that lead to an entry are its codeword and what continues it. -/
theorem Coded.root_lead_eq_leaf (h : Coded 0 HuffTree.root lens t code ok) {e : Nat} {x : List Bool} :
    t.lead x = .leaf e ↔ ∃ c, code[e]? = some (some c) ∧ c <+: x := by
  have hroot : HuffTree.root.lead x ≠ .leaf e := by
    match x with
    | [] => simp [HuffTree.root]
    | false :: x => simp [HuffTree.root]
    | true :: x => simp [HuffTree.root]
  rw [h.lead_eq_leaf, or_iff_right hroot]
  simp

/-- In a built tree the strings that lead nowhere are those that continue no codeword and are a prefix of none. -/
theorem Coded.root_lead_eq_absent (h : Coded 0 HuffTree.root lens t code ok) {x : List Bool} :
    t.lead x = .absent ↔ x ≠ [] ∧ ∀ (e : Nat) (c : List Bool), code[e]? = some (some c) → ¬ c <+: x ∧ ¬ x <+: c := by
  rw [h.lead_eq_absent, HuffTree.freeAfter, HuffTree.lead_root]
  exact and_congr_right fun _ => ⟨fun hf e c hc => hf e (List.getElem?_eq_some_iff.1 hc).1 c hc, fun hf e _ => hf e⟩

/-- The nodes of a built tree are the prefixes of its codewords, and the root (43_codebook.md R224). -/
theorem Coded.nodeCount_eq (h : Coded 0 HuffTree.root lens t code ok) :
    t.nodeCount = (([] : List Bool) :: code.flatMap (fun c => (c.getD []).inits)).dedup.length := by
  rw [← HuffTree.paths_length]
  refine ((List.perm_ext_iff_of_nodup (HuffTree.paths_nodup t) (List.nodup_dedup _)).2 fun x => ?_).length_eq
  have hroot : x ∈ HuffTree.root.paths ↔ x = [] := by simp [HuffTree.root, HuffTree.paths]
  rw [h.mem_paths, hroot, List.mem_dedup, List.mem_cons, List.mem_flatMap]
  simp only [List.mem_inits]
  refine or_congr_right' fun hne => ⟨fun ⟨c, hc, hx⟩ => ⟨some c, hc, hx⟩, fun ⟨o, ho, hx⟩ => ?_⟩
  cases o with
  | none => exact absurd (List.prefix_nil.1 hx) hne
  | some c => exact ⟨c, ho, hx⟩

/-- When an entry's codeword comes next, the walk answers the entry, with the codeword read (43_codebook.md R225). -/
theorem Coded.walk_codeword (h : Coded 0 HuffTree.root lens t code ok) (b : Nat) {r : Reader} {e : Nat} {c : List Bool}
    (hc : code[e]? = some (some c)) (hbits : r.bits c.length = c) : t.walk b r = .ok e (r.skipEach 1 c.length) := by
  obtain ⟨n, hend, hnodes⟩ := HuffTree.exists_walkEnds b t r
  have hlead {x : List Bool} (hx : c <+: x) : t.lead x = .leaf e := h.root_lead_eq_leaf.2 ⟨c, hc, hx⟩
  have hle : n ≤ c.length := by
    by_contra hlt
    obtain ⟨l, g, hnode⟩ := hnodes c.length (Nat.not_le.1 hlt)
    cases (hlead ⟨[], by rw [List.append_nil, hbits]⟩).symm.trans hnode
  have hprefix : r.bits n <+: c := by
    have := List.take_prefix n (r.bits c.length)
    rwa [r.take_bits hle, hbits] at this
  rcases hend with ⟨i, hleaf, hwalk⟩ | ⟨habsent, -⟩
  · obtain ⟨d, hd, hdn⟩ := h.root_lead_eq_leaf.1 hleaf
    obtain rfl : e = i :=
      HuffTree.leaf.inj ((hlead List.prefix_rfl).symm.trans (h.root_lead_eq_leaf.2 ⟨d, hd, hdn.trans hprefix⟩))
    obtain rfl : c = d := Option.some.inj (Option.some.inj (hc.symm.trans hd))
    rwa [Nat.le_antisymm hle (r.bits_length n ▸ hdn.length_le)] at hwalk
  · exact absurd hprefix ((h.root_lead_eq_absent.1 habsent).2 e c hc).2

/-- When no codeword comes next, the walk ends at the first bit with which what was read is a prefix of no codeword
(43_codebook.md R225). -/
theorem Coded.walk_invalid (h : Coded 0 HuffTree.root lens t code ok) (b : Nat) {r : Reader}
    (hno : ∀ (e : Nat) (c : List Bool), code[e]? = some (some c) → r.bits c.length ≠ c) :
    ∃ k, 1 ≤ k ∧ t.walk b r = .bad .huffInvalid b (r.skipEach 1 k)
      ∧ (∀ (e : Nat) (c : List Bool), code[e]? = some (some c) → ¬ r.bits k <+: c)
      ∧ ∀ j, 1 ≤ j → j < k → ∃ (e : Nat) (c : List Bool), code[e]? = some (some c) ∧ r.bits j <+: c := by
  obtain ⟨n, hend, hnodes⟩ := HuffTree.exists_walkEnds b t r
  obtain ⟨hlead, hwalk⟩ : t.lead (r.bits n) = .absent ∧ t.walk b r = .bad .huffInvalid b (r.skipEach 1 n) := by
    refine hend.resolve_left ?_
    rintro ⟨e, hleaf, -⟩
    obtain ⟨c, hc, hprefix⟩ := h.root_lead_eq_leaf.1 hleaf
    exact hno e c hc (Reader.bits_of_prefix hprefix)
  obtain ⟨hne, hfree⟩ := h.root_lead_eq_absent.1 hlead
  refine ⟨n, r.bits_length n ▸ List.length_pos_iff.2 hne, hwalk, fun e c hc => (hfree e c hc).2, fun j hj hjn => ?_⟩
  by_contra hcon
  obtain ⟨l, g, hnode⟩ := hnodes j hjn
  have hnone : t.lead (r.bits j) = .absent := h.root_lead_eq_absent.2 ⟨List.length_pos_iff.1 (by rwa [r.bits_length]),
    fun e c hc => ⟨fun hp => hno e c hc (Reader.bits_of_prefix hp), fun hp => hcon ⟨e, c, hc, hp⟩⟩⟩
  cases hnode.symm.trans hnone

end

/-- Settles O29: the walk ends at a leaf, where the entry's codeword has come, or where no codeword goes on. -/
theorem huffmanDecode : Obligations.HuffmanDecode := by
  unfold Obligations.HuffmanDecode
  intro lens b r _ _
  have hcoded := coded_placeCodes lens 0 HuffTree.root
  exact ⟨fun e c hc hbits => hcoded.walk_codeword b hc hbits, hcoded.walk_invalid b, hcoded.nodeCount_eq⟩

end Sys2Proof.Machine
end

section
/-! VQ vectors (43_codebook.md R226, R227). -/

namespace Sys2Proof.Machine

open Sys2Proof

/-! ### Sequences of reads -/

@[simp] theorem Got.ok_bind {α β : Type} (a : α) (r : Reader) (f : α → Reader → Got β) : (Got.ok a r).bind f = f a r := rfl

@[simp] theorem Got.bad_bind {α β : Type} (c : ErrCode) (i : Nat) (r : Reader) (f : α → Reader → Got β) :
    (Got.bad c i r : Got α).bind f = .bad c i r := rfl

theorem Got.bind_assoc {α β γ : Type} (g : Got α) (f : α → Reader → Got β) (f' : β → Reader → Got γ) :
    (g.bind f).bind f' = g.bind fun a r => (f a r).bind f' := by
  cases g <;> rfl

@[simp] theorem Got.bind_ok_self {α : Type} (g : Got α) : g.bind Got.ok = g := by cases g <;> rfl

theorem Got.bind_congr {α β : Type} {g : Got α} {f f' : α → Reader → Got β} (h : ∀ a r, g = .ok a r → f a r = f' a r) :
    g.bind f = g.bind f' := by
  cases g with
  | ok a r => exact h a r rfl
  | bad c i r => rfl
  | stuck e => rfl

/-! ### Vectors (43_codebook.md R226) -/

section
variable {b : Codebook} {e : Nat}

theorem vqVectorFrom_succ {k i m : Nat} (h : b.mult[vqOffset b e i]? = some m) (last : F32) :
    vqVectorFrom b e (k + 1) i last =
      (vqVectorFrom b e k (i + 1) (if b.seq then vqValue b m last else last)).map (vqValue b m last :: ·) := by
  rw [vqVectorFrom, h]

/-- Where the multiplicands hold every offset, each value is that of its multiplicand, with the carry of a sequential book
(43_codebook.md R226). -/
theorem vqVectorFrom_eq (k : Nat) : ∀ (i : Nat) (last : F32), (∀ j < k, vqOffset b e (i + j) < b.mult.length) →
    ∃ v, vqVectorFrom b e k i last = some v ∧ ∀ j < k,
      v[j]? = some (vqValue b (b.mult.getD (vqOffset b e (i + j)) 0)
        (if b.seq ∧ 0 < j then v.getD (j - 1) F32.zero else last)) := by
  induction k with
  | zero => exact fun _ _ _ => ⟨[], rfl, fun _ hj => absurd hj (Nat.not_lt_zero _)⟩
  | succ k ih =>
    intro i last hoff
    have h0 : b.mult[vqOffset b e i]? = some (b.mult.getD (vqOffset b e i) 0) := by
      have hlt : vqOffset b e i < b.mult.length := hoff 0 k.succ_pos
      rw [List.getElem?_eq_getElem hlt, List.getD_eq_getElem _ _ hlt]
    obtain ⟨v, hv, hval⟩ := ih (i + 1) (if b.seq then vqValue b (b.mult.getD (vqOffset b e i) 0) last else last)
      (fun j hj => by rw [Nat.add_assoc, Nat.add_comm 1]; exact hoff (j + 1) (Nat.succ_lt_succ hj))
    rw [vqVectorFrom_succ h0, hv]
    refine ⟨_, rfl, fun j hj => ?_⟩
    cases j with
    | zero => simp
    | succ j =>
      rw [List.getElem?_cons_succ, hval j (Nat.lt_of_succ_lt_succ hj), Nat.add_assoc, Nat.add_comm 1]
      congr 2
      cases b.seq with
      | false => simp
      | true => cases j <;> simp

/-- The multiplicands of a book whose lookup is complete hold every offset of every entry (43_codebook.md R226). -/
theorem vqOffset_lt (he : e < b.entries)
    (hlookup : b.lookup = 1 ∧ 1 ≤ b.dims ∧ b.lookupValues = lookup1Values b.entries b.dims
      ∨ b.lookup = 2 ∧ b.lookupValues = b.entries * b.dims)
    {i : Nat} (hi : i < b.dims) : vqOffset b e i < b.lookupValues := by
  rcases hlookup with ⟨hl, hd, hv⟩ | ⟨hl, hv⟩
  · rw [vqOffset, if_pos hl]
    refine Nat.mod_lt _ (hv ▸ le_lookup1Values hd ?_)
    rw [Nat.one_pow]
    omega
  · rw [vqOffset, if_neg (by omega), hv]
    calc e * b.dims + i < (e + 1) * b.dims := by rw [Nat.succ_mul]; omega
      _ ≤ b.entries * b.dims := Nat.mul_le_mul_right _ he

end

/-! ### The checks before decoding (43_codebook.md R227) -/

section
variable {books : List Codebook} {k : Nat} {b : Codebook}

/-- A book without vectors fails the first check, one of dimension 0 the second, before a bit is read (43_codebook.md R227). -/
theorem vqCheck_eq (h : books[k]? = some b) (r : Reader) :
    vqCheck books k r = if b.lookup = 0 then .bad .cbNoVq k r else if b.dims = 0 then .bad .cbZeroDim k r else .ok b r := by
  rw [vqCheck, h]

theorem vqDecode_eq (h : books[k]? = some b) (hl : b.lookup ≠ 0) (hd : b.dims ≠ 0) {r r' : Reader} {e : Nat} {v : List F32}
    (hwalk : b.tree.walk k r = .ok e r') (hv : vqVector b e = some v) : vqDecode books k r = .ok v r' := by
  have hdecode : huffDecode books k r = .ok e r' := by rw [huffDecode, h, ← hwalk]
  rw [vqDecode, vqCheck_eq h, if_neg hl, if_neg hd, Got.ok_bind, hdecode, Got.ok_bind, hv]

end

/-- Settles O30: every offset holds a multiplicand, and the two checks come before the codeword. -/
theorem vqVectors : Obligations.VqVectors := by
  unfold Obligations.VqVectors
  refine ⟨fun b e he hlookup hlen => ?vectors,
    fun books k b r h => ⟨fun hl => ?noVq, fun hl hd => ?zeroDim, fun hl hd => ?decoded⟩⟩
  case vectors =>
    obtain ⟨v, hv, hval⟩ := vqVectorFrom_eq b.dims 0 F32.zero fun i hi =>
      hlen ▸ vqOffset_lt he hlookup (Nat.zero_add i ▸ hi)
    refine ⟨v, hv, vqVectorFrom_length b e _ _ _ v hv, fun i hi => ?_⟩
    rw [hval i hi, Nat.zero_add]
    rfl
  case noVq => rw [vqDecode, vqCheck_eq h, if_pos hl, Got.bad_bind]
  case zeroDim => rw [vqDecode, vqCheck_eq h, if_neg hl, if_pos hd, Got.bad_bind]
  case decoded => exact fun e r' v hwalk hv => vqDecode_eq h hl hd hwalk hv

end Sys2Proof.Machine
end

section
/-! Adding vectors into a vector under accumulation (45_residue.md R287, R288). -/

namespace Sys2Proof.Machine

open Sys2Proof

/-! ### One vector -/

theorem addAt_of_lt {v : List F32} {idx : Nat} (h : idx < v.length) (x : F32) :
    addAt v idx x = some (v.set idx (F32.add (v.getD idx F32.zero) x)) := by
  rw [addAt, List.getElem?_eq_getElem h, List.getD_eq_getElem _ _ h]

theorem addAt_of_le {v : List F32} {idx : Nat} (h : v.length ≤ idx) (x : F32) : addAt v idx x = none := by
  rw [addAt, List.getElem?_eq_none h]

/-- A vector whose places are all there is added at them and nowhere else (45_residue.md R287). -/
theorem addStrided_ok {step : Nat} (hstep : 1 ≤ step) (e : List F32) : ∀ (idx : Nat) (v : List F32),
    (∀ t < e.length, idx + t * step < v.length) →
    ∃ w, addStrided step e idx v = some w ∧ w.length = v.length
      ∧ (∀ t < e.length, w[idx + t * step]? = some (F32.add (v.getD (idx + t * step) F32.zero) (e.getD t F32.zero)))
      ∧ ∀ p, (∀ t < e.length, p ≠ idx + t * step) → w[p]? = v[p]? := by
  induction e with
  | nil => exact fun idx v _ => ⟨v, rfl, rfl, fun _ ht => absurd ht (Nat.not_lt_zero _), fun _ _ => rfl⟩
  | cons x xs ih =>
    intro idx v hplaces
    have hplace (t : Nat) : idx + step + t * step = idx + (t + 1) * step := by rw [Nat.succ_mul]; omega
    have hidx : idx < v.length := by simpa using hplaces 0 (Nat.succ_pos _)
    obtain ⟨w, hw, hlen, hvalue, hother⟩ := ih (idx + step) (v.set idx (F32.add (v.getD idx F32.zero) x))
      (fun t ht => by rw [hplace, List.length_set]; exact hplaces (t + 1) (Nat.succ_lt_succ ht))
    refine ⟨w, ?_, hlen.trans List.length_set, fun t ht => ?_, fun p hp => ?_⟩
    · rw [addStrided, addAt_of_lt hidx]
      exact hw
    · cases t with
      | zero =>
        rw [Nat.zero_mul, Nat.add_zero, hother idx fun t _ => by omega, List.getElem?_set_self hidx]
        rfl
      | succ t =>
        have hne : idx ≠ idx + (t + 1) * step := by rw [Nat.succ_mul]; omega
        have := hvalue t (Nat.lt_of_succ_lt_succ ht)
        rw [hplace, List.getD_eq_getElem?_getD, List.getElem?_set_ne hne, ← List.getD_eq_getElem?_getD] at this
        exact this
    · have hne : idx ≠ p := fun h => hp 0 (Nat.succ_pos _) (by omega)
      rw [hother p fun t ht => hplace t ▸ hp (t + 1) (Nat.succ_lt_succ ht), List.getElem?_set_ne hne]

/-- A vector with a place at or past the end is not added (45_residue.md R287). -/
theorem addStrided_none {step : Nat} (e : List F32) : ∀ (idx : Nat) (v : List F32) (t : Nat), t < e.length →
    v.length ≤ idx + t * step → addStrided step e idx v = none := by
  induction e with
  | nil => exact fun _ _ _ ht => absurd ht (Nat.not_lt_zero _)
  | cons x xs ih =>
    intro idx v t ht hpast
    rw [addStrided]
    rcases Nat.lt_or_ge idx v.length with hidx | hidx
    · rw [addAt_of_lt hidx]
      cases t with
      | zero => omega
      | succ t =>
        refine ih (idx + step) _ t (Nat.lt_of_succ_lt_succ ht) ?_
        rw [List.length_set]
        rw [Nat.succ_mul] at hpast
        omega
    · rw [addAt_of_le hidx]

theorem addVector_ok {res step idx : Nat} {e v w : List F32} (h : addStrided step e idx v = some w) (r : Reader) :
    addVector res step e idx v r = .ok w r := by rw [addVector, h]

theorem addVector_overrun {res step idx t : Nat} {e v : List F32} (ht : t < e.length) (h : v.length ≤ idx + t * step)
    (r : Reader) : addVector res step e idx v r = .bad .resOverrun res r := by
  rw [addVector, addStrided_none e idx v t ht h]

/-! ### Vectors one after the other -/

/-- Value `t` of vector `j` of `es`, of dimension `dims`, is added to `v` at `place j t`, and nothing else changes. -/
structure AddedAt (dims : Nat) (place : Nat → Nat → Nat) (es : List (List F32)) (v w : List F32) : Prop where
  length : w.length = v.length
  value : ∀ j < es.length, ∀ t < dims,
    w[place j t]? = some (F32.add (v.getD (place j t) F32.zero) ((es.getD j []).getD t F32.zero))
  other : ∀ p, (∀ j < es.length, ∀ t < dims, p ≠ place j t) → w[p]? = v[p]?

/-- The places of `n` vectors of dimension `dims`, their starts `stride` and their values `step` apart, are all different. -/
structure PlacesApart (step stride dims n : Nat) : Prop where
  positive : 0 < n → 1 ≤ step
  ne : ∀ j t t', 0 < j → j < n → t < dims → t' < dims → t' * step ≠ j * stride + t * step

/-- `n` vectors of book `k`, the first at `idx` and each `stride` after the one before, their values `step` apart. -/
def vectorsLoop (books : List Codebook) (res k step stride : Nat) : Nat → Nat → List F32 → Reader → Got (List F32)
  | 0, _, v, r => .ok v r
  | n + 1, idx, v, r =>
    (vqDecode books k r).bind fun e r =>
      (addVector res step e idx v r).bind fun v r => vectorsLoop books res k step stride n (idx + stride) v r

section
variable {books : List Codebook} {res k : Nat} {b : Codebook} {step stride n : Nat}

theorem length_of_vqDecode (h : books[k]? = some b) {r r' : Reader} {e : List F32} (he : vqDecode books k r = .ok e r') :
    e.length = b.dims := by
  obtain ⟨b', hb', hlen, -⟩ := vqDecode_length he
  cases h.symm.trans hb'
  exact hlen

/-- One vector added, then those after it. -/
theorem AddedAt.cons {idx : Nat} {e : List F32} {es : List (List F32)} {v u w : List F32} {dims : Nat}
    (hap : PlacesApart step stride dims n) (hn : es.length < n) (hlen : u.length = v.length)
    (hvalue : ∀ t < dims, u[idx + t * step]? = some (F32.add (v.getD (idx + t * step) F32.zero) (e.getD t F32.zero)))
    (hother : ∀ p, (∀ t < dims, p ≠ idx + t * step) → u[p]? = v[p]?)
    (h : AddedAt dims (fun j t => idx + stride + j * stride + t * step) es u w) :
    AddedAt dims (fun j t => idx + j * stride + t * step) (e :: es) v w := by
  have hplace (j t : Nat) : idx + stride + j * stride + t * step = idx + (j + 1) * stride + t * step := by
    rw [Nat.succ_mul]; omega
  have hne {j t t' : Nat} (hj : j < es.length) (ht : t < dims) (ht' : t' < dims) :
      idx + t' * step ≠ idx + (j + 1) * stride + t * step := by
    have := hap.ne (j + 1) t t' j.succ_pos (by omega) ht ht'
    omega
  refine ⟨h.length.trans hlen, fun j hj t ht => ?_, fun p hp => ?_⟩
  · cases j with
    | zero =>
      rw [Nat.zero_mul, Nat.add_zero, h.other _ fun j hj t' ht' => hplace j t' ▸ hne hj ht' ht, hvalue t ht]
      rfl
    | succ j =>
      have hkept : u.getD (idx + (j + 1) * stride + t * step) F32.zero =
          v.getD (idx + (j + 1) * stride + t * step) F32.zero := by
        rw [List.getD_eq_getElem?_getD, List.getD_eq_getElem?_getD,
          hother _ fun t' ht' => (hne (Nat.lt_of_succ_lt_succ hj) ht ht').symm]
      have := h.value j (Nat.lt_of_succ_lt_succ hj) t ht
      rw [hplace, hkept] at this
      exact this
  · rw [h.other p fun j hj t ht => hplace j t ▸ hp (j + 1) (Nat.succ_lt_succ hj) t ht]
    refine hother p fun t ht => ?_
    have := hp 0 (Nat.succ_pos _) t ht
    rwa [Nat.zero_mul, Nat.add_zero] at this

/-- Vectors that are decoded and have their places are added, and the loop goes on after them. -/
theorem vectorsLoop_read (h : books[k]? = some b) (hap : PlacesApart step stride b.dims n) (m : Nat) (es : List (List F32)) :
    ∀ (idx : Nat) (v : List F32) (r r1 : Reader), es.length ≤ n → VectorsRead books k r es r1 →
    (∀ j < es.length, ∀ t < b.dims, idx + j * stride + t * step < v.length) →
    ∃ w, AddedAt b.dims (fun j t => idx + j * stride + t * step) es v w
      ∧ vectorsLoop books res k step stride (es.length + m) idx v r
        = vectorsLoop books res k step stride m (idx + es.length * stride) w r1 := by
  induction es with
  | nil =>
    intro idx v r r1 _ hread _
    cases hread
    refine ⟨v, ⟨rfl, fun _ hj => absurd hj (Nat.not_lt_zero _), fun _ _ => rfl⟩, ?_⟩
    rw [List.length_nil, Nat.zero_add, Nat.zero_mul, Nat.add_zero]
  | cons e es ih =>
    intro idx v r r1 hn ⟨r2, he, hread⟩ hplaces
    have hlen := length_of_vqDecode h he
    have hplaces0 : ∀ t < e.length, idx + t * step < v.length := fun t ht => by
      have := hplaces 0 (Nat.succ_pos _) t (hlen ▸ ht)
      rwa [Nat.zero_mul, Nat.add_zero] at this
    obtain ⟨u, hu, hulen, hvalue, hother⟩ := addStrided_ok
      (hap.positive (Nat.lt_of_lt_of_le (Nat.succ_pos _) hn)) e idx v hplaces0
    rw [hlen] at hvalue hother
    obtain ⟨w, hw, hloop⟩ := ih (idx + stride) u r2 r1 (Nat.le_of_succ_le hn) hread fun j hj t ht => by
      have := hplaces (j + 1) (Nat.succ_lt_succ hj) t ht
      rw [Nat.succ_mul] at this
      rw [hulen]
      omega
    refine ⟨w, hw.cons hap hn hulen hvalue hother, ?_⟩
    rw [List.length_cons, Nat.add_right_comm, vectorsLoop, he, Got.ok_bind, addVector_ok hu, Got.ok_bind, hloop, Nat.succ_mul,
      Nat.add_assoc, Nat.add_comm stride]

/-- The loop ends with a vector that cannot be decoded, by that vector's error. -/
theorem vectorsLoop_bad {r r' : Reader} {c : ErrCode} {i : Nat} (hbad : vqDecode books k r = .bad c i r') (m idx : Nat)
    (v : List F32) : vectorsLoop books res k step stride (m + 1) idx v r = .bad c i r' := by
  rw [vectorsLoop, hbad, Got.bad_bind]

/-- The loop ends with a vector that has a place past the end, after that vector's bits. -/
theorem vectorsLoop_overrun (h : books[k]? = some b) {r r' : Reader} {e v : List F32} (he : vqDecode books k r = .ok e r')
    {idx t : Nat} (ht : t < b.dims) (hpast : v.length ≤ idx + t * step) (m : Nat) :
    vectorsLoop books res k step stride (m + 1) idx v r = .bad .resOverrun res r' := by
  rw [vectorsLoop, he, Got.ok_bind, addVector_overrun (by rwa [length_of_vqDecode h he]) hpast, Got.bad_bind]

/-! ### The two partition loops -/

/-- The vectors of a type-0 partition start one after the other (45_residue.md R287). -/
theorem partition0Loop_eq (step n : Nat) : ∀ (idx : Nat) (v : List F32) (r : Reader),
    partition0Loop books res k step n idx v r = vectorsLoop books res k step 1 n idx v r := by
  induction n with
  | zero => exact fun _ _ _ => rfl
  | succ n ih =>
    intro idx v r
    simp only [partition0Loop, vectorsLoop, ih]

/-- The vectors of the other partitions follow each other until the partition is full (45_residue.md R288). -/
theorem partition1Loop_eq (h : books[k]? = some b) (hd : b.dims ≠ 0) (off psize fuel : Nat) :
    ∀ (i : Nat) (v : List F32) (r : Reader), psize ≤ i + fuel →
    partition1Loop books res k off psize fuel i v r
      = vectorsLoop books res k 1 b.dims ((psize - i + b.dims - 1) / b.dims) (off + i) v r := by
  have hfull {i : Nat} (hi : psize ≤ i) : (psize - i + b.dims - 1) / b.dims = 0 := Nat.div_eq_of_lt (by omega)
  induction fuel with
  | zero =>
    intro i v r hi
    rw [hfull (i := i) hi]
    rfl
  | succ fuel ih =>
    intro i v r hfuel
    rw [partition1Loop]
    split
    · rw [hfull ‹_›]
      rfl
    · have hnext : (psize - i + b.dims - 1) / b.dims = (psize - (i + b.dims) + b.dims - 1) / b.dims + 1 := by
        rw [← Nat.add_div_right _ (Nat.pos_of_ne_zero hd)]
        rcases Nat.le_total (i + b.dims) psize with hle | hle
        · congr 1
          omega
        · rw [Nat.div_eq_of_lt_le (k := 1), Nat.div_eq_of_lt_le (k := 1)] <;> omega
      rw [hnext, vectorsLoop]
      refine Got.bind_congr fun e r1 he => Got.bind_congr fun u r2 _ => ?_
      rw [length_of_vqDecode h he, ih (i + b.dims) u r2 (by omega), Nat.add_assoc]

end

/-! ### Partitions -/

/-- How far apart the values of a vector are in a partition (45_residue.md R287, R288). -/
def partitionStep (ty : ResType) (psize dims : Nat) : Nat := if ty = .t0 then psize / dims else 1

/-- How far apart the vectors start in a partition (45_residue.md R287, R288). -/
def partitionStride (ty : ResType) (dims : Nat) : Nat := if ty = .t0 then 1 else dims

theorem partitionPlace_eq (ty : ResType) (off psize dims j t : Nat) :
    partitionPlace ty off psize dims j t = off + j * partitionStride ty dims + t * partitionStep ty psize dims := by
  rw [partitionPlace, partitionStride, partitionStep]
  split <;> simp

theorem partition_apart (ty : ResType) (psize : Nat) {dims : Nat} :
    PlacesApart (partitionStep ty psize dims) (partitionStride ty dims) dims (partitionVectors ty psize dims) := by
  rw [partitionStep, partitionStride, partitionVectors]
  split
  · refine ⟨id, fun j t t' hj hjn _ _ heq => ?_⟩
    have := congrArg (· % (psize / dims)) heq
    simp only [Nat.mul_mod_left, Nat.mul_one, Nat.add_mul_mod_self_right, Nat.mod_eq_of_lt hjn] at this
    omega
  · refine ⟨fun _ => le_rfl, fun j t t' hj _ _ ht' heq => ?_⟩
    have := Nat.le_mul_of_pos_left dims hj
    omega

section
variable {books : List Codebook} {res k : Nat} {b : Codebook}

theorem partition_noVq (h : books[k]? = some b) (hl : b.lookup = 0) (ty : ResType) (off psize : Nat) (v : List F32)
    (r : Reader) : partition ty books res k off psize v r = .bad .cbNoVq k r := by
  cases ty <;> simp only [partition, partition0, partition1, vqCheck_eq h, if_pos hl, Got.bad_bind]

theorem partition_zeroDim (h : books[k]? = some b) (hl : b.lookup ≠ 0) (hd : b.dims = 0) (ty : ResType) (off psize : Nat)
    (v : List F32) (r : Reader) : partition ty books res k off psize v r = .bad .cbZeroDim k r := by
  cases ty <;> simp only [partition, partition0, partition1, vqCheck_eq h, if_neg hl, if_pos hd, Got.bad_bind]

/-- A partition of a fit book is a run of its vectors (45_residue.md R287, R288). -/
theorem partition_eq (h : books[k]? = some b) (hl : b.lookup ≠ 0) (hd : b.dims ≠ 0) (ty : ResType) (off psize : Nat)
    (v : List F32) (r : Reader) :
    partition ty books res k off psize v r
      = vectorsLoop books res k (partitionStep ty psize b.dims) (partitionStride ty b.dims)
          (partitionVectors ty psize b.dims) off v r := by
  have h0 : partition0 books res k off psize v r = vectorsLoop books res k (psize / b.dims) 1 (psize / b.dims) off v r := by
    rw [partition0, vqCheck_eq h, if_neg hl, if_neg hd, Got.ok_bind, partition0Loop_eq]
  have h1 : partition1 books res k off psize v r =
      vectorsLoop books res k 1 b.dims ((psize + b.dims - 1) / b.dims) off v r := by
    rw [partition1, vqCheck_eq h, if_neg hl, if_neg hd, Got.ok_bind, partition1Loop_eq h hd _ _ _ _ _ _ (Nat.zero_add _).ge]
    rfl
  cases ty with
  | t0 => exact h0
  | t1 => exact h1
  | t2 => exact h1

end

/-- Settles O42: one vector at its stride, and a partition as a run of vectors whose places are apart. -/
theorem partitionAdds : Obligations.PartitionAdds := by
  unfold Obligations.PartitionAdds
  refine ⟨fun res step idx e v r hstep => ⟨fun hplaces => ?added, fun ⟨t, ht, hpast⟩ => addVector_overrun ht hpast r⟩,
    fun ty books res k off psize b v r h => ⟨fun hl => partition_noVq h hl .., fun hl hd => partition_zeroDim h hl hd ..,
      fun hl hd es r1 hread hplaces => ?run⟩⟩
  case added =>
    obtain ⟨w, hw, hadded⟩ := addStrided_ok hstep e idx v hplaces
    exact ⟨w, addVector_ok hw r, hadded⟩
  case run =>
    simp only [partition_eq h hl hd, partitionPlace_eq] at hplaces ⊢
    have hloop (hle : es.length ≤ partitionVectors ty psize b.dims) (m : Nat) :=
      vectorsLoop_read (res := res) h (partition_apart ty psize) m es off v r r1 hle hread hplaces
    refine ⟨fun hfull => ?full, fun hfewer => ?fewer⟩
    case full =>
      obtain ⟨w, hw, heq⟩ := hloop hfull.le 0
      rw [← hfull]
      exact ⟨w, heq, hw.length, hw.value, hw.other⟩
    case fewer =>
      obtain ⟨m, hm⟩ := Nat.exists_eq_add_of_lt hfewer
      obtain ⟨w, hw, heq⟩ := hloop hfewer.le (m + 1)
      rw [hm, Nat.add_assoc, heq]
      exact ⟨fun c i r2 hbad => vectorsLoop_bad hbad _ _ _, fun e r2 he ⟨t, ht, hpast⟩ =>
        vectorsLoop_overrun h he ht (hw.length ▸ hpast) m⟩

end Sys2Proof.Machine
end

section
/-! The codewords of a floor payload (44_floor1.md R255 to R257). -/

namespace Sys2Proof.Machine

open Sys2Proof

section
variable {books : List Codebook} {c : FloorClass} {f : FloorConfig}

/-! ### The slots of a class (44_floor1.md R257) -/

/-- Peeling a piece off the class value names the next slot's book. -/
theorem div_piece_succ (v j : Nat) : v / 2 ^ (c.sub * j) / 2 ^ c.sub = v / 2 ^ (c.sub * (j + 1)) := by
  rw [Nat.div_div_eq_div_mul, ← Nat.pow_add, Nat.mul_succ]

/-- A slot without a book has the value 0, and no bits. -/
theorem floorSlots_noBook {v j : Nat} (h : slotBook c v j = some none) (k : Nat) (r : Reader) :
    floorSlots books c (k + 1) (v / 2 ^ (c.sub * j)) r =
      (floorSlots books c k (v / 2 ^ (c.sub * (j + 1))) r).bind fun ys r => .ok (0 :: ys) r := by
  rw [slotBook] at h
  rw [floorSlots, h, div_piece_succ]

/-- A slot with a book has an entry of it. -/
theorem floorSlots_book {v j b : Nat} (h : slotBook c v j = some (some b)) (k : Nat) (r : Reader) :
    floorSlots books c (k + 1) (v / 2 ^ (c.sub * j)) r =
      (huffDecode books b r).bind fun y r =>
        (floorSlots books c k (v / 2 ^ (c.sub * (j + 1))) r).bind fun ys r => .ok (y :: ys) r := by
  rw [slotBook] at h
  rw [floorSlots, h, div_piece_succ]

/-- The slots that are read, then those after them. -/
theorem floorSlots_read {v : Nat} (zs : List Nat) : ∀ {j : Nat} {r r' : Reader}, SlotsRead books c v j r zs r' → ∀ k : Nat,
    floorSlots books c (zs.length + k) (v / 2 ^ (c.sub * j)) r =
      (floorSlots books c k (v / 2 ^ (c.sub * (j + zs.length))) r').bind fun ys r => .ok (zs ++ ys) r := by
  induction zs with
  | nil =>
    intro j r r' h k
    cases h
    rw [List.length_nil, Nat.zero_add, Nat.add_zero]
    exact (Got.bind_ok_self _).symm
  | cons y zs ih =>
    intro j r r' ⟨r1, hslot, hrest⟩ k
    have hrest' := ih hrest k
    rw [Nat.add_assoc, Nat.add_comm 1] at hrest'
    rw [List.length_cons, Nat.add_right_comm]
    rcases hslot with ⟨hnone, rfl, rfl⟩ | ⟨b, hb, hdecode⟩
    · rw [floorSlots_noBook hnone, hrest', Got.bind_assoc]
      rfl
    · rw [floorSlots_book hb, hdecode, Got.ok_bind, hrest', Got.bind_assoc]
      rfl

theorem floorSlots_all {v : Nat} {zs : List Nat} {r r' : Reader} (h : SlotsRead books c v 0 r zs r') :
    floorSlots books c zs.length v r = .ok zs r' := by
  have hread := floorSlots_read zs h 0
  rw [Nat.mul_zero, Nat.pow_zero, Nat.div_one, Nat.add_zero] at hread
  rw [hread, floorSlots, Got.ok_bind, List.append_nil]

/-- A slot whose codeword has no leaf ends the slots of its class. -/
theorem floorSlots_bad {v b k : Nat} {zs : List Nat} {r r1 r' : Reader} {e : ErrCode} {i : Nat}
    (h : SlotsRead books c v 0 r zs r1) (hk : zs.length < k) (hb : slotBook c v zs.length = some (some b))
    (hbad : huffDecode books b r1 = .bad e i r') : floorSlots books c k v r = .bad e i r' := by
  obtain ⟨m, rfl⟩ := Nat.exists_eq_add_of_lt hk
  have hread := floorSlots_read zs h (m + 1)
  rw [Nat.mul_zero, Nat.pow_zero, Nat.div_one, Nat.zero_add] at hread
  rw [Nat.add_assoc, hread, floorSlots_book hb, hbad, Got.bad_bind, Got.bad_bind]

/-! ### The class value (44_floor1.md R257) -/

theorem floorClassValue_read {r r' : Reader} {v : Nat} (h : ClassValueRead books c r v r') :
    floorClassValue books c r = .ok v r' := by
  rw [floorClassValue]
  rcases h with ⟨hsub, rfl, rfl⟩ | ⟨hsub, m, hm, hdecode⟩
  · rw [if_pos hsub]
  · rw [if_neg hsub, hm]
    exact hdecode

theorem floorClassValue_master {m : Nat} (hsub : c.sub ≠ 0) (hm : c.master = some m) (r : Reader) :
    floorClassValue books c r = huffDecode books m r := by
  rw [floorClassValue, if_neg hsub, hm]

/-! ### The partitions (44_floor1.md R257) -/

theorem floorPartitions_cons {p : Nat} (hc : f.classes[p]? = some c) (ps : List Nat) (r : Reader) :
    floorPartitions books f (p :: ps) r =
      (floorClassValue books c r).bind fun cval r =>
        (floorSlots books c c.dim cval r).bind fun ys r =>
          (floorPartitions books f ps r).bind fun more r => .ok (ys ++ more) r := by
  rw [floorPartitions, hc]

/-- The partitions that are read, then those after them. -/
theorem floorPartitions_read (ps qs : List Nat) : ∀ {r r' : Reader} {ys : List Nat}, PartitionsRead books f ps r ys r' →
    floorPartitions books f (ps ++ qs) r = (floorPartitions books f qs r').bind fun more r => .ok (ys ++ more) r := by
  induction ps with
  | nil =>
    rintro r r' ys ⟨rfl, rfl⟩
    exact (Got.bind_ok_self _).symm
  | cons p ps ih =>
    rintro r r' ys ⟨c, cval, r1, ys1, r2, ys2, hc, hval, hlen, hslots, hrest, rfl⟩
    rw [List.cons_append, floorPartitions_cons hc, floorClassValue_read hval, Got.ok_bind, ← hlen, floorSlots_all hslots,
      Got.ok_bind, ih hrest, Got.bind_assoc]
    simp only [Got.ok_bind, List.append_assoc]

theorem floorPartitions_all {ps : List Nat} {r r' : Reader} {ys : List Nat} (h : PartitionsRead books f ps r ys r') :
    floorPartitions books f ps r = .ok ys r' := by
  have hread := floorPartitions_read ps [] h
  rwa [List.append_nil, floorPartitions, Got.ok_bind, List.append_nil] at hread

/-- A codeword with no leaf, of a masterbook or of a slot's book, ends the payload (43_codebook.md R225). -/
theorem floorPartitions_bad {ps qs : List Nat} {p b : Nat} {ys : List Nat} {r r1 r' : Reader} {e : ErrCode} {i : Nat}
    (h : PartitionsRead books f ps r ys r1) (hc : f.classes[p]? = some c)
    (hbad : c.sub ≠ 0 ∧ c.master = some b ∧ huffDecode books b r1 = .bad e i r'
      ∨ ∃ cval r2 zs r3, ClassValueRead books c r1 cval r2 ∧ zs.length < c.dim ∧ SlotsRead books c cval 0 r2 zs r3
          ∧ slotBook c cval zs.length = some (some b) ∧ huffDecode books b r3 = .bad e i r') :
    floorPartitions books f (ps ++ p :: qs) r = .bad e i r' := by
  rw [floorPartitions_read ps _ h, floorPartitions_cons hc]
  rcases hbad with ⟨hsub, hm, hdecode⟩ | ⟨cval, r2, zs, r3, hval, hlt, hslots, hb, hdecode⟩
  · rw [floorClassValue_master hsub hm, hdecode, Got.bad_bind, Got.bad_bind]
  · rw [floorClassValue_read hval, Got.ok_bind, floorSlots_bad hslots hlt hb hdecode, Got.bad_bind, Got.bad_bind]

/-- There is one value for each slot of each partition (44_floor1.md R257). -/
theorem length_of_partitionsRead (ps : List Nat) : ∀ {r r' : Reader} {ys : List Nat}, PartitionsRead books f ps r ys r' →
    ys.length = total (ps.map (fun p => ((f.classes[p]?).map FloorClass.dim).getD 0)) := by
  induction ps with
  | nil =>
    rintro r r' ys ⟨rfl, -⟩
    rfl
  | cons p ps ih =>
    rintro r r' ys ⟨c, cval, r1, ys1, r2, ys2, hc, -, hlen, -, hrest, rfl⟩
    rw [List.length_append, hlen, ih hrest, List.map_cons, total, hc]
    rfl

/-! ### Fit books -/

theorem huffDecode_of_ready {b : Nat} (h : scalarReady books b) (r : Reader) : ∃ y r', huffDecode books b r = .ok y r' := by
  obtain ⟨book, hbook, hcomplete⟩ := h
  obtain ⟨y, r', hwalk, -⟩ := HuffTree.walk_complete b book.tree hcomplete r
  exact ⟨y, r', by rw [huffDecode, hbook, ← hwalk]⟩

theorem exists_slotsRead (hlen : c.books.length = 2 ^ c.sub) (hbooks : ∀ b ∈ c.books, ∀ i, b = some i → scalarReady books i)
    (v k : Nat) : ∀ (j : Nat) (r : Reader), ∃ zs r', zs.length = k ∧ SlotsRead books c v j r zs r' := by
  induction k with
  | zero => exact fun j r => ⟨[], r, rfl, rfl⟩
  | succ k ih =>
    intro j r
    obtain ⟨o, ho⟩ : ∃ o, slotBook c v j = some o :=
      ⟨_, List.getElem?_eq_getElem ((Nat.mod_lt _ (Nat.two_pow_pos c.sub)).trans_eq hlen.symm)⟩
    cases o with
    | none =>
      obtain ⟨zs, r', hzs, hread⟩ := ih (j + 1) r
      exact ⟨0 :: zs, r', congrArg (· + 1) hzs, r, .inl ⟨ho, rfl, rfl⟩, hread⟩
    | some b =>
      obtain ⟨y, r1, hy⟩ := huffDecode_of_ready (hbooks _ (List.mem_of_getElem? ho) b rfl) r
      obtain ⟨zs, r', hzs, hread⟩ := ih (j + 1) r1
      exact ⟨y :: zs, r', congrArg (· + 1) hzs, r1, .inr ⟨b, ho, hy⟩, hread⟩

theorem exists_classValueRead (hmaster : c.sub ≠ 0 → ∃ m, c.master = some m ∧ scalarReady books m) (r : Reader) :
    ∃ v r', ClassValueRead books c r v r' := by
  by_cases hsub : c.sub = 0
  · exact ⟨0, r, .inl ⟨hsub, rfl, rfl⟩⟩
  · obtain ⟨m, hm, hready⟩ := hmaster hsub
    obtain ⟨v, r', hv⟩ := huffDecode_of_ready hready r
    exact ⟨v, r', .inr ⟨hsub, m, hm, hv⟩⟩

/-- The payload of a floor whose books are fit is read, whatever bits follow (44_floor1.md R257). -/
theorem exists_partitionsRead (h : floorReady books f) (ps : List Nat) (hps : ps ⊆ f.partClass) :
    ∀ r : Reader, ∃ ys r', PartitionsRead books f ps r ys r' := by
  induction ps with
  | nil => exact fun r => ⟨[], r, rfl, rfl⟩
  | cons p ps ih =>
    intro r
    obtain ⟨hp, hrest⟩ := List.cons_subset.1 hps
    obtain ⟨c, hc, hlen, hmaster, hbooks⟩ := h p hp
    obtain ⟨v, r1, hval⟩ := exists_classValueRead hmaster r
    obtain ⟨ys1, r2, hdim, hslots⟩ := exists_slotsRead hlen hbooks v c.dim 0 r1
    obtain ⟨ys2, r', hread⟩ := ih hrest r2
    exact ⟨ys1 ++ ys2, r', c, v, r1, ys1, r2, ys2, hc, hval, hdim, hslots, hread, rfl⟩

end

/-! ### The payload -/

section
variable {s : State} {ch : Nat} {f : FloorConfig} {w : Nat}

/-- A floor payload with flag 1: its codewords follow the flag and the baseline values (44_floor1.md R255, R257). -/
theorem execFloor1PayloadPresent_eq (hseq : s.seq = .floorPayload ch) (hf : s.channelFloor ch = some f)
    (hw : w = floorYWidth (floorRange f.multiplier)) (y0 y1 : Nat) :
    execFloor1PayloadPresent y0 y1 s =
      (floorPartitions s.codebooks f f.partClass (s.reader.skips [1, w, w])).finish (s.markFloor ch false) fun ys t =>
        .next { t with
          frame := { t.frame with floorY := t.frame.floorY.set ch ([y0, y1] ++ ys) }
          seq := if ch + 1 < s.cfg.channels then .floorPayload (ch + 1) else .curves } := by
  have hch : s.curChannel = ch := by rw [State.curChannel, hseq]
  rw [execFloor1PayloadPresent, hch, hf, hw]
  rfl

/-- What a reader that was reached by reads of at most 32 bits leaves in the state (41_bitreader.md R154,
60_exceptions.md R354). -/
theorem withReader_of_reaches (hi : s.Inv) {r : Reader} (h : s.reader.Reaches r) :
    (s.withReader r).warn = s.warn.warned r.exhausted ∧ s.pktBitpos ≤ r.pos ∧ r.pos ≤ 8 * s.pkt.length := by
  refine ⟨?_, h.le, h.bound hi.cursor⟩
  rw [State.withReader_warn, h.noClamp]
  exact WarnRec.add_eq_warned _ hi.clamp

end

/-- Settles O34: the codewords are read as `PartitionsRead` says, up to the first that has no leaf. -/
theorem floorPayloadPresent : Obligations.FloorPayloadPresent := by
  unfold Obligations.FloorPayloadPresent
  refine ⟨fun s ch f y0 y1 w r0 hseq hf hw hr0 => ?_, by decide, by decide, by decide, by decide⟩
  have hnarrow : Narrow [1, w, w] :=
    (narrow_of_decide (ws := [1]) rfl).append (.replicate (hw ▸ floorYWidth_le f.multiplier) 2)
  have hexec := execFloor1PayloadPresent_eq hseq hf hw y0 y1
  rw [← hr0] at hexec
  have hreaches {r : Reader} (h : r0.Reaches r) : s.reader.Reaches r := (hr0 ▸ Reader.skips_reaches hnarrow s.reader).trans h
  have hfrom := floorPartitions_from s.codebooks f f.partClass r0
  refine ⟨fun hi => hr0 ▸ Reader.skips_eq_after hnarrow hi.cursor, fun hready => ?ready, fun ys r h => ?read,
    fun ps qs p b c ys r1 r' hps h hc hbad => ?aborts⟩
  case ready =>
    obtain ⟨ys, r, h⟩ := exists_partitionsRead hready f.partClass (List.Subset.refl _) r0
    rw [floorPartitions_all h] at hexec
    exact ⟨_, ys, r, hexec, h⟩
  case read =>
    rw [floorPartitions_all h] at hexec hfrom
    exact ⟨_, hexec, rfl, length_of_partitionsRead _ h, fun hi => withReader_of_reaches hi (hreaches hfrom)⟩
  case aborts =>
    rw [hps, floorPartitions_bad h hc hbad] at hexec hfrom
    exact ⟨_, hexec, ⟨rfl, rfl, rfl⟩, rfl, fun hi => (withReader_of_reaches hi (hreaches hfrom)).1⟩

end Sys2Proof.Machine
end

section
/-! The setup unit of a floor (44_floor1.md R250 to R254, R258). -/

namespace Sys2Proof.Machine

open Sys2Proof

/-! ### The fields and their checks (44_floor1.md R251 to R254) -/

/-- The fields of a class: the two sizes, the masterbook, and the subclass books, -1 and the codebooks' indices allowed
(44_floor1.md R252). -/
def classFields (nBooks : Nat) (c : ClassFields) : List CheckedField :=
  [(3, none), (2, none)] ++ c.master.toList.map (fun m => (8, checkThat (decide (m.toNat < nBooks)) .floorBook))
    ++ c.books.map (fun b => (8, checkThat (decide (b.toNat ≤ nBooks)) .floorBook))

/-- The fields of a floor with their checks (44_floor1.md R251 to R254). -/
def floorFields (nBooks : Nat) (f : FloorFields) : List CheckedField :=
  [(16, none)] ++ (5, none) :: List.replicate f.partClass.length (4, none) ++ f.classes.flatMap (classFields nBooks)
    ++ ((2, none) :: (4, none) :: List.replicate f.xs.length (f.rangebits.toNat, none))

/-! ### What the meaning writes -/

/-- A class is stored behind the others (44_floor1.md R252). -/
def FloorConfig.pushClass (k : FloorClass) (f : FloorConfig) : FloorConfig := { f with classes := f.classes ++ [k] }

/-- The masterbook of the class under decode is stored, if there is one (44_floor1.md R252). -/
def FloorConfig.setMaster (m : Option (BitVec 8)) (f : FloorConfig) : FloorConfig :=
  match m with
  | none => f
  | some v => modifyClass (fun c => { c with master := some v.toNat }) f

/-- A subclass book of the class under decode is stored (44_floor1.md R252). -/
def FloorConfig.pushBook (v : BitVec 8) : FloorConfig → FloorConfig :=
  modifyClass fun c => { c with books := c.books ++ [minusOne v] }

/-- The greatest class number of the partitions, -1 without partitions (44_floor1.md R251). -/
theorem classCount_sub_one (cs : List (BitVec 4)) :
    (classCount cs : Int) - 1 = (cs.map (fun c => (c.toNat : Int))).foldl max (-1) := by
  have hmax : ∀ (cs : List (BitVec 4)) (n : Nat), ((cs.foldl (fun acc c => max acc (c.toNat + 1)) n : Nat) : Int) - 1 =
      (cs.map (fun c => (c.toNat : Int))).foldl max ((n : Int) - 1) := by
    intro cs
    induction cs with
    | nil => exact fun _ => rfl
    | cons c cs ih =>
      intro n
      have hstep : ((max n (c.toNat + 1) : Nat) : Int) - 1 = max ((n : Int) - 1) c.toNat := by omega
      rw [List.foldl_cons, ih, hstep]
      rfl
  exact hmax cs 0

/-- A class as it is stored (44_floor1.md R252). -/
def classEntry (c : ClassFields) : FloorClass where
  dim := plusOne c.dimM1
  sub := c.sub.toNat
  master := c.master.map BitVec.toNat
  books := c.books.map minusOne

/-- The entry of a floor with no failing check (44_floor1.md R250 to R254). -/
def floorEntry (f : FloorFields) : FloorConfig where
  type := 1
  partitions := f.partClass.length
  partClass := f.partClass.map BitVec.toNat
  maxClass := (f.partClass.map (fun c => (c.toNat : Int))).foldl max (-1)
  classes := f.classes.map classEntry
  multiplier := plusOne f.multM1
  rangebits := f.rangebits.toNat
  xs := [0, powerOfTwo f.rangebits] ++ f.xs
  values := 2 + f.xs.length

section
variable (f : FloorConfig) (k : FloorClass)

/-- The class under decode is the last one. -/
theorem modifyClass_pushClass (g : FloorClass → FloorClass) : modifyClass g (f.pushClass k) = f.pushClass (g k) := by
  have hmodify (l : List FloorClass) : (l ++ [k]).modify l.length g = l ++ [g k] := by
    induction l with
    | nil => rfl
    | cons a l ih => exact congrArg (a :: ·) ih
  simp [modifyClass, modifyAt, FloorConfig.pushClass, hmodify]

theorem setMaster_pushClass (hk : k.master = none) (m : Option (BitVec 8)) :
    (f.pushClass k).setMaster m = f.pushClass { k with master := m.map BitVec.toNat } := by
  cases m with
  | none => exact congrArg f.pushClass (congrArg (fun m => { k with master := m }) hk)
  | some v => exact modifyClass_pushClass f k _

theorem foldl_pushBook (books : List (BitVec 8)) : ∀ k : FloorClass,
    books.foldl (fun f v => f.pushBook v) (f.pushClass k) = f.pushClass { k with books := k.books ++ books.map minusOne } := by
  induction books with
  | nil => simp
  | cons v books ih =>
    intro k
    rw [List.foldl_cons, FloorConfig.pushBook, modifyClass_pushClass, ih]
    simp

end

theorem foldl_pushClass (cs : List ClassFields) : ∀ f : FloorConfig,
    cs.foldl (fun f c => f.pushClass (classEntry c)) f = { f with classes := f.classes ++ cs.map classEntry } := by
  induction cs with
  | nil => simp
  | cons c cs ih =>
    intro f
    rw [List.foldl_cons, ih]
    simp [FloorConfig.pushClass]

/-! ### What the meaning reads and checks -/

/-- Fields of one width, none of which is checked. -/
theorem foldl_readChecked_replicate (w k : Nat) : ∀ r : Reader,
    (List.replicate k (w, none)).foldl readChecked (r, none) = (r.skipEach w k, none) := by
  induction k with
  | zero => exact fun _ => rfl
  | succ k ih => exact fun r => ih (r.skip w)

/-- A field that is written only when its check passes. -/
theorem Part.Runs.field_checked {α : Type} {p : Part α} (w : Nat) (write : α → α) (ok : Prop) [Decidable ok]
    (c : ErrCode) : p.Runs (p.field w (if ok then write else id) (checkThat (decide ok) c)) [(w, checkThat (decide ok) c)] write := by
  by_cases h : ok
  · rw [if_pos h]
    exact .field w write _
  · rw [decide_eq_false h]
    exact .next fun _ => ⟨rfl, fun he => by cases he⟩

/-- A subclass book is none, or an index below the codebook count (44_floor1.md R252). -/
theorem subBookOk_eq (nBooks : Nat) (v : BitVec 8) : subBookOk nBooks v = decide (v.toNat ≤ nBooks) := by
  rw [subBookOk, minusOne]
  by_cases hv : v = 0
  · simp [hv]
  · have hpos : v.toNat ≠ 0 := fun h => hv (BitVec.eq_of_toNat_eq h)
    rw [if_neg hv]
    exact decide_eq_decide.2 (by omega)

theorem floorPartClasses_runs (cs : List (BitVec 4)) (p : Part FloorConfig) :
    p.Runs (floorPartClasses cs p) ((5, none) :: List.replicate cs.length (4, none)) fun f =>
      { f with
        partitions := cs.length, partClass := cs.map BitVec.toNat
        maxClass := (cs.map (fun c => (c.toNat : Int))).foldl max (-1) } := by
  rw [← classCount_sub_one]
  exact .next fun r => ⟨(foldl_readChecked_replicate 4 cs.length (r.skip 5)).symm, fun _ => ⟨rfl, rfl⟩⟩

theorem floorMaster_runs (nBooks : Nat) (m : Option (BitVec 8)) (p : Part FloorConfig) :
    p.Runs (floorMaster nBooks m p) (m.toList.map fun v => (8, checkThat (decide (v.toNat < nBooks)) .floorBook))
      (.setMaster m) := by
  cases m with
  | none => exact .refl p
  | some v => exact .field_checked 8 _ _ _

theorem floorSubBook_runs (nBooks : Nat) (p : Part FloorConfig) (v : BitVec 8) :
    p.Runs (floorSubBook nBooks p v) [(8, checkThat (decide (v.toNat ≤ nBooks)) .floorBook)] (.pushBook v) := by
  simp only [floorSubBook, subBookOk_eq, decide_eq_true_eq]
  exact .field_checked 8 _ _ _

theorem floorClass_runs (nBooks : Nat) (p : Part FloorConfig) (c : ClassFields) :
    p.Runs (floorClass nBooks p c) (classFields nBooks c) (.pushClass (classEntry c)) := by
  have hhead : p.Runs
      (p.next fun r f =>
        { rd := r.skips [3, 2]
          val := f.pushClass { dim := plusOne c.dimM1, sub := c.sub.toNat, master := none, books := [] }
          err := none })
      [(3, none), (2, none)] (.pushClass { dim := plusOne c.dimM1, sub := c.sub.toNat, master := none, books := [] }) :=
    .next fun _ => ⟨rfl, fun _ => ⟨rfl, rfl⟩⟩
  have hruns := (hhead.trans (floorMaster_runs nBooks c.master _)).trans (.foldl (floorSubBook_runs nBooks) c.books _)
  simp only [setMaster_pushClass, foldl_pushBook, ← List.map_eq_flatMap] at hruns
  exact hruns

theorem floorRangeAndXs_runs (ff : FloorFields) (p : Part FloorConfig) :
    p.Runs (floorRangeAndXs ff p) ((2, none) :: (4, none) :: List.replicate ff.xs.length (ff.rangebits.toNat, none)) fun f =>
      { f with
        multiplier := plusOne ff.multM1, rangebits := ff.rangebits.toNat, xs := [0, powerOfTwo ff.rangebits] ++ ff.xs
        values := 2 + ff.xs.length } := by
  rw [Nat.add_comm 2]
  exact .next fun r => ⟨(foldl_readChecked_replicate _ _ ((r.skip 2).skip 4)).symm, fun _ => ⟨rfl, rfl⟩⟩

/-- A floor up to its last field, before the X values are checked (44_floor1.md R250 to R254). -/
def floorRead (nBooks : Nat) (ff : FloorFields) (r : Reader) : Part FloorConfig :=
  floorRangeAndXs ff
    (ff.classes.foldl (floorClass nBooks) (floorPartClasses ff.partClass { rd := r.skip 16, val := .fresh, err := none }))

theorem decodeFloor_eq (nBooks : Nat) (ff : FloorFields) (r : Reader) :
    decodeFloor nBooks ff r = floorNeighborCheck (floorRead nBooks ff r) := rfl

/-- A floor is read, checked and written field by field. -/
theorem floorRead_runs (nBooks : Nat) (ff : FloorFields) (r : Reader) :
    Part.Runs { rd := r, val := .fresh, err := none } (floorRead nBooks ff r) (floorFields nBooks ff)
      fun _ => floorEntry ff := by
  have htype : Part.Runs { rd := r, val := FloorConfig.fresh, err := none }
      { rd := r.skip 16, val := .fresh, err := none } [(16, none)] id := ⟨rfl, fun _ => ⟨rfl, rfl⟩⟩
  have hruns := (htype.trans (floorPartClasses_runs ff.partClass _)).trans
    (.foldl (floorClass_runs nBooks) ff.classes _) |>.trans (floorRangeAndXs_runs ff _)
  simp only [foldl_pushClass] at hruns
  exact ⟨hruns.1, fun he => ⟨rfl, (hruns.2 he).2⟩⟩

/-! ### The fields, their checks and the first error, as the statements say them -/

theorem floorFields_widths (nBooks : Nat) (f : FloorFields) (c : Ctx) :
    (floorFields nBooks f).map Prod.fst = fieldWidths c (.floor1 f) := by
  have hmaster (m : Option (BitVec 8)) : List.replicate m.toList.length 8 = if m.isSome then [8] else [] := by
    cases m <;> rfl
  simp [floorFields, fieldWidths, classFields, List.map_flatMap, Function.comp_def, hmaster]

theorem floorFields_ok (nBooks : Nat) (f : FloorFields) :
    (floorFields nBooks f).map (fun fd => fd.2.isNone) = floorFieldsOk nBooks f := by
  simp [floorFields, floorFieldsOk, classFields, List.map_flatMap, Function.comp_def, isNone_checkThat, List.replicate_add]

/-- A check that a number is at most another. -/
theorem checkThat_le (a n : Nat) (c : ErrCode) : checkThat (decide (a ≤ n)) c = if n < a then some c else none := by
  by_cases h : n < a
  · rw [decide_eq_false (Nat.not_le.2 h), if_pos h]
    rfl
  · rw [decide_eq_true (Nat.not_lt.1 h), if_neg h]
    rfl

/-- The books of a class raise one error (44_floor1.md R252). -/
theorem classFields_error (nBooks : Nat) (c : ClassFields) :
    (classFields nBooks c).findSome? Prod.snd =
      if (∃ m ∈ c.master, nBooks ≤ m.toNat) ∨ ∃ b ∈ c.books, nBooks < b.toNat then some .floorBook else none := by
  have hmaster : (c.master.toList.map fun m => (8, checkThat (decide (m.toNat < nBooks)) .floorBook)).findSome?
      (Prod.snd : CheckedField → _) = if ∃ m ∈ c.master, nBooks ≤ m.toNat then some .floorBook else none := by
    cases c.master <;> simp [checkThat_lt]
  have hbooks : (c.books.map fun b => (8, checkThat (decide (b.toNat ≤ nBooks)) .floorBook)).findSome?
      (Prod.snd : CheckedField → _) = if ∃ b ∈ c.books, nBooks < b.toNat then some .floorBook else none := by
    rw [List.findSome?_map]
    simp only [Function.comp_def, checkThat_le]
    convert findSome?_ite_some (fun b : BitVec 8 => nBooks < b.toNat) _ c.books
  rw [classFields, List.findSome?_append, List.findSome?_append, hmaster, hbooks]
  by_cases hm : ∃ m ∈ c.master, nBooks ≤ m.toNat
  · simp only [hm, if_true, true_or]
    rfl
  · simp only [hm, if_false, false_or]
    rfl

theorem floorFields_error (nBooks : Nat) (f : FloorFields) :
    (floorFields nBooks f).findSome? Prod.snd =
      if ∃ c ∈ f.classes, (∃ m ∈ c.master, nBooks ≤ m.toNat) ∨ ∃ b ∈ c.books, nBooks < b.toNat then some .floorBook
      else none := by
  have hplain (w k : Nat) : (List.replicate k (w, none)).findSome? (Prod.snd : CheckedField → _) = none :=
    List.findSome?_eq_none_iff.2 fun fd hfd => congrArg Prod.snd (List.eq_of_mem_replicate hfd)
  have hclasses : (f.classes.flatMap (classFields nBooks)).findSome? Prod.snd =
      if ∃ c ∈ f.classes, (∃ m ∈ c.master, nBooks ≤ m.toNat) ∨ ∃ b ∈ c.books, nBooks < b.toNat then some .floorBook
      else none := by
    rw [findSome?_flatMap]
    simp only [classFields_error]
    exact findSome?_ite_some _ _ f.classes
  simp only [floorFields, List.findSome?_append, List.findSome?_cons, hplain, hclasses]
  split_ifs <;> rfl

/-! ### The check of the X values (44_floor1.md R258) -/

section
variable {p : Part FloorConfig}

theorem floorNeighborCheck_rd : (floorNeighborCheck p).rd = p.rd := by
  rw [floorNeighborCheck, Part.next]
  split <;> rfl

theorem floorNeighborCheck_val : (floorNeighborCheck p).val = p.val := by
  rw [floorNeighborCheck, Part.next]
  split <;> rfl

theorem floorNeighborCheck_err {ys : List Nat} {a b : Nat} (h : p.err = none → p.val.xs = [a, b] ++ ys) :
    (floorNeighborCheck p).err = p.err.or (if 0 ∈ ys then some .floorNeighbor else none) := by
  cases hp : p.err with
  | some c => rw [floorNeighborCheck, Part.next_of_err hp, hp, Option.some_or]
  | none =>
    rw [floorNeighborCheck, Part.next_of_none hp, h hp, Option.none_or]
    show checkThat (ys.all fun x => x != 0) _ = _
    by_cases hz : 0 ∈ ys
    · rw [if_pos hz, List.all_eq_false.2 ⟨0, hz, by decide⟩]
      rfl
    · rw [if_neg hz, List.all_eq_true.2 fun x hx => bne_iff_ne.2 (ne_of_mem_of_not_mem hx hz)]
      rfl

end

/-- A floor unit ends with its first error, and is read up to that field, or to its last one (60_exceptions.md R353). -/
theorem decodeFloor_spec (nBooks : Nat) (f : FloorFields) (r : Reader) (c : Ctx) :
    (decodeFloor nBooks f r).rd = r.skips (readUpTo (fieldWidths c (.floor1 f)) (floorFieldsOk nBooks f))
      ∧ (decodeFloor nBooks f r).err = floorError nBooks f
      ∧ (floorError nBooks f = none → (decodeFloor nBooks f r).val = floorEntry f) := by
  obtain ⟨hread, hval⟩ := floorRead_runs nBooks f r
  rw [foldl_readChecked, floorFields_widths nBooks f c, floorFields_ok, floorFields_error] at hread
  obtain ⟨hrd, herr⟩ := Prod.mk.inj hread
  have hxs (h : (floorRead nBooks f r).err = none) : (floorRead nBooks f r).val.xs = [0, powerOfTwo f.rangebits] ++ f.xs := by
    rw [(hval h).2, floorEntry]
  rw [decodeFloor_eq, floorNeighborCheck_rd, floorNeighborCheck_val, floorNeighborCheck_err hxs, hrd, herr, floorError]
  refine ⟨rfl, ?_, fun hnone => (hval ?_).2⟩
  · split_ifs <;> rfl
  · rw [herr]
    split_ifs at hnone ⊢
    rfl

/-! ### The statements -/

/-- The X values have at most 15 bits each (44_floor1.md R253, 41_bitreader.md R152). -/
theorem floorWidths_narrow (f : FloorFields) (c : Ctx) : Narrow (fieldWidths c (.floor1 f)) := by
  have hrange : f.rangebits.toNat ≤ 32 := by
    have := f.rangebits.isLt
    omega
  exact (((narrow_of_decide (ws := [16, 5]) rfl).append (.replicate (by decide) _)).append
    (.flatMap fun k => ((narrow_of_decide (ws := [3, 2]) rfl).append
      (.ite (narrow_of_decide rfl) (narrow_of_decide rfl))).append (.replicate (by decide) _))).append
    (narrow_of_decide (ws := [2, 4]) rfl) |>.append (.replicate hrange _)

/-- Settles O31: no check fails, so the entry is the assembled one, and all fields are read. -/
theorem floorAccepted : Obligations.FloorAccepted := by
  unfold Obligations.FloorAccepted
  intro f s hnone
  obtain ⟨-, herr, hval⟩ := decodeFloor_spec s.nCodebooks f s.reader (.floor s.floors.length)
  rw [hnone] at herr
  have hall := decodeFloor_read herr (.floor s.floors.length)
  simp only [exec, execFloor1, herr, hval hnone]
  exact ⟨_, rfl, rfl, readBy_of_skips _ (floorWidths_narrow f _) hall rfl rfl⟩

/-- Settles O32: the first failing check aborts, and the unit is read up to its field, or to its last one. -/
theorem floorRejected : Obligations.FloorRejected := by
  unfold Obligations.FloorRejected
  intro f s c hsome
  obtain ⟨hrd, herr, -⟩ := decodeFloor_spec s.nCodebooks f s.reader (.floor s.floors.length)
  simp only [exec, execFloor1, herr, hsome]
  exact ⟨_, rfl, ⟨rfl, rfl, rfl⟩, rfl, ⟨_, rfl⟩, readBy_of_skips _ ((floorWidths_narrow f _).take _) hrd rfl rfl⟩

end Sys2Proof.Machine
end

section
/-! A floor payload with flag 0 (44_floor1.md R255). -/

namespace Sys2Proof.Machine

open Sys2Proof

/-- Settles O33: the flag is read, and the channel's row of used flags is cleared. -/
theorem floorPayloadUnused : Obligations.FloorPayloadUnused := by
  unfold Obligations.FloorPayloadUnused
  intro s ch hseq
  have hch : s.curChannel = ch := by rw [State.curChannel, hseq]
  rw [exec, execFloor1PayloadUnused, hch]
  refine ⟨_, rfl, rfl, fun k hk => List.getElem?_set_ne hk.symm, fun k => ?cleared, List.length_set,
    readBy_of_skips _ (narrow_of_decide rfl) rfl rfl rfl⟩
  case cleared =>
    show ((s.floorUsed.set ch []).getD ch []).getD k false = false
    have hrow : (s.floorUsed.set ch []).getD ch [] = [] := by
      rw [List.getD_eq_getElem?_getD, List.getElem?_set_self']
      cases s.floorUsed[ch]? <;> rfl
    rw [hrow, List.getD_nil]

end Sys2Proof.Machine
end

section
/-! The neighbors of a floor's point, and the point of a line (44_floor1.md R258, R259). -/

namespace Sys2Proof.Machine

open Sys2Proof

/-! ### The best of a list of indices -/

section
variable (r : Nat → Nat → Prop) {xs : List Nat}

/-- Of the indices `l`, `n` has the last X value in the order `r`, and is the smallest index of equal ones. -/
def IsBest (xs l : List Nat) (n : Nat) : Prop :=
  n ∈ l ∧ ∀ k ∈ l, r (xs.getD k 0) (xs.getD n 0) ∨ xs.getD k 0 = xs.getD n 0 ∧ n ≤ k

variable {r} [IsStrictTotalOrder Nat r] {l : List Nat} {m n : Nat}

theorem IsBest.le (h : IsBest r xs l n) (hm : IsBest r xs l m) : m ≤ n := by
  obtain ⟨hn, hbest⟩ := h
  obtain hlt | ⟨-, hle⟩ := hm.2 n hn
  · obtain hgt | ⟨heq, -⟩ := hbest m hm.1
    · exact absurd hgt (asymm_of r hlt)
    · exact absurd (heq ▸ hlt) (irrefl_of r _)
  · exact hle

theorem IsBest.unique (h : IsBest r xs l n) (hm : IsBest r xs l m) : n = m := le_antisymm (hm.le h) (h.le hm)

/-- A later index is taken when it is strictly better than the best so far. -/
theorem IsBest.concat (h : IsBest r xs l n) (hlt : ∀ k ∈ l, k < m) [Decidable (r (xs.getD n 0) (xs.getD m 0))] :
    IsBest r xs (l ++ [m]) (if r (xs.getD n 0) (xs.getD m 0) then m else n) := by
  obtain ⟨hn, hbest⟩ := h
  simp only [IsBest, List.mem_append, List.mem_singleton, or_imp, forall_and, forall_eq]
  split
  case isTrue hr =>
    refine ⟨.inr rfl, fun k hk => .inl ?_, .inr ⟨rfl, le_rfl⟩⟩
    obtain hkn | ⟨heq, -⟩ := hbest k hk
    · exact trans_of r hkn hr
    · exact heq ▸ hr
  case isFalse hr =>
    refine ⟨.inl hn, hbest, ?_⟩
    obtain hnm | heq | hmn := trichotomous_of r (xs.getD n 0) (xs.getD m 0)
    · exact absurd hnm hr
    · exact .inr ⟨heq.symm, (hlt n hn).le⟩
    · exact .inl hmn

variable [DecidableRel r]

/-- The scan over rising indices ends with the best of them, or there are none. -/
theorem foldl_better (hl : l.Pairwise (· < ·)) :
    (l = [] ∧ l.foldl (better (fun a b => decide (r a b)) xs) none = none)
      ∨ ∃ n, l.foldl (better (fun a b => decide (r a b)) xs) none = some n ∧ IsBest r xs l n := by
  induction l using List.reverseRecOn with
  | nil => exact .inl ⟨rfl, rfl⟩
  | append_singleton l m ih =>
    obtain ⟨hl', -, hlt⟩ := List.pairwise_append.1 hl
    right
    rw [List.foldl_append]
    obtain ⟨rfl, -⟩ | ⟨n, hn, hbest⟩ := ih hl'
    · exact ⟨m, rfl, List.mem_singleton_self m, fun k hk => .inr (by simp_all)⟩
    · refine ⟨_, ?_, hbest.concat fun k hk => hlt k hk m (List.mem_singleton_self m)⟩
      rw [hn, List.foldl_cons, List.foldl_nil, better]
      simp only [decide_eq_true_eq, apply_ite some]

theorem foldl_better_eq_some (hl : l.Pairwise (· < ·)) :
    l.foldl (better (fun a b => decide (r a b)) xs) none = some n ↔ IsBest r xs l n := by
  obtain ⟨rfl, hnone⟩ | ⟨m, hm, hbest⟩ := foldl_better (r := r) (xs := xs) hl
  · simp [hnone, IsBest]
  · rw [hm, Option.some.injEq]
    exact ⟨fun h => h ▸ hbest, hbest.unique⟩

theorem foldl_better_eq_none (hl : l.Pairwise (· < ·)) :
    l.foldl (better (fun a b => decide (r a b)) xs) none = none ↔ l = [] := by
  obtain ⟨rfl, hnone⟩ | ⟨m, hm, hbest⟩ := foldl_better (r := r) (xs := xs) hl
  · simp
  · simp [hm, List.ne_nil_of_mem hbest.1]

end

/-! ### The two neighbors (44_floor1.md R258) -/

section
variable {xs : List Nat} {j n : Nat}

theorem pairwise_filter_range (p : Nat → Bool) (j : Nat) : ((List.range j).filter p).Pairwise (· < ·) :=
  List.pairwise_lt_range.filter p

theorem lowNeighbor_eq_some :
    lowNeighbor xs j = some n ↔
      n < j ∧ xs.getD n 0 < xs.getD j 0
        ∧ ∀ k < j, xs.getD k 0 < xs.getD j 0 → xs.getD k 0 < xs.getD n 0 ∨ xs.getD k 0 = xs.getD n 0 ∧ n ≤ k := by
  rw [lowNeighbor, foldl_better_eq_some (r := (· < ·)) (pairwise_filter_range _ j)]
  simp [IsBest, and_assoc]

theorem highNeighbor_eq_some :
    highNeighbor xs j = some n ↔
      n < j ∧ xs.getD j 0 < xs.getD n 0
        ∧ ∀ k < j, xs.getD j 0 < xs.getD k 0 → xs.getD n 0 < xs.getD k 0 ∨ xs.getD k 0 = xs.getD n 0 ∧ n ≤ k := by
  rw [highNeighbor, foldl_better_eq_some (r := (· > ·)) (pairwise_filter_range _ j)]
  simp [IsBest, and_assoc]

theorem lowNeighbor_eq_none : lowNeighbor xs j = none ↔ ∀ k < j, xs.getD j 0 ≤ xs.getD k 0 := by
  rw [lowNeighbor, foldl_better_eq_none (r := (· < ·)) (pairwise_filter_range _ j)]
  simp

theorem highNeighbor_eq_none : highNeighbor xs j = none ↔ ∀ k < j, xs.getD k 0 ≤ xs.getD j 0 := by
  rw [highNeighbor, foldl_better_eq_none (r := (· > ·)) (pairwise_filter_range _ j)]
  simp

end

/-- Settles O35: the scans end with the best candidate; index 0 lies below every X value but 0, and index 1 above. -/
theorem floorNeighbors : Obligations.FloorNeighbors := by
  unfold Obligations.FloorNeighbors
  refine fun xs j => ⟨fun n => lowNeighbor_eq_some, fun n => highNeighbor_eq_some, fun hj h0 => ?_, fun hj h1 hnone => ?_⟩
  · rw [lowNeighbor_eq_none]
    exact ⟨fun h => Nat.le_zero.1 ((h 0 (by omega)).trans_eq h0), fun h k _ => h.trans_le (Nat.zero_le _)⟩
  · exact absurd (highNeighbor_eq_none.1 hnone 1 (by omega)) (Nat.not_le.2 h1)

/-! ### `render_point` (44_floor1.md R259) -/

section
variable {x0 x1 x : Nat} {y0 y1 : Int}

/-- The distance of the line's point at `x` from `y0`, rounded down (44_floor1.md R259). -/
def renderDistance (x0 : Nat) (y0 : Int) (x1 : Nat) (y1 : Int) (x : Nat) : Nat := (y1 - y0).natAbs * (x - x0) / (x1 - x0)

theorem renderPoint_eq (h : x0 ≤ x1) (hx : x0 ≤ x) :
    renderPoint x0 y0 x1 y1 x =
      if y1 < y0 then y0 - renderDistance x0 y0 x1 y1 x else y0 + renderDistance x0 y0 x1 y1 x := by
  have hoff : Int.tdiv (((y1 - y0).natAbs : Int) * ((x : Int) - x0)) ((x1 : Int) - x0) = renderDistance x0 y0 x1 y1 x := by
    rw [← Nat.cast_sub h, ← Nat.cast_sub hx, ← Nat.cast_mul, ← Int.ofNat_tdiv, renderDistance]
  simp only [renderPoint, hoff, sub_neg]

theorem renderDistance_le (hx : x ≤ x1) : renderDistance x0 y0 x1 y1 x ≤ (y1 - y0).natAbs :=
  Nat.div_le_of_le_mul (Nat.mul_comm _ _ ▸ Nat.mul_le_mul_right _ (Nat.sub_le_sub_right hx x0))

/-- A level line keeps its value. -/
theorem renderPoint_level (h : x0 ≤ x1) (hx : x0 ≤ x) : renderPoint x0 y0 x1 y0 x = y0 := by
  simp [renderPoint_eq h hx, renderDistance]

end

/-- Settles O36: the rounded distance is at most the whole one. -/
theorem renderPoint_spec : Obligations.RenderPoint := by
  unfold Obligations.RenderPoint
  intro x0 x1 x y0 y1 h hx0 hx1
  have hle : renderDistance x0 y0 x1 y1 x ≤ (y1 - y0).natAbs := renderDistance_le hx1
  refine ⟨fun hy => ?_, fun hy => ?_⟩
  · have habs : (y1 - y0).toNat = (y1 - y0).natAbs := by omega
    rw [renderPoint_eq h.le hx0, if_neg (by omega), habs]
    exact ⟨rfl, by omega, by omega⟩
  · have habs : (y0 - y1).toNat = (y1 - y0).natAbs := by omega
    rw [renderPoint_eq h.le hx0, if_pos hy, habs]
    exact ⟨rfl, by omega, by omega⟩

end Sys2Proof.Machine
end

section
/-! Step 2 of a floor (44_floor1.md R260, R261). -/

namespace Sys2Proof.Machine

open Sys2Proof

/-- The value of a used point, branch by branch (44_floor1.md R260). -/
theorem step2Value_branches (range : Nat) (pred : Int) (v : Nat) :
    (2 * min ((range : Int) - pred) pred ≤ v →
      (pred < range - pred → step2Value range pred v = v - pred + pred)
      ∧ (range - pred ≤ pred → step2Value range pred v = pred - v + (range - pred) - 1))
    ∧ ((v : Int) < 2 * min ((range : Int) - pred) pred →
      (v % 2 = 1 → step2Value range pred v = pred - ((v + 1) / 2 : Nat))
      ∧ (v % 2 = 0 → step2Value range pred v = pred + (v / 2 : Nat))) := by
  have hroom : (if (range : Int) - pred < pred then 2 * ((range : Int) - pred) else 2 * pred) =
      2 * min ((range : Int) - pred) pred := by
    split <;> omega
  simp only [step2Value, hroom]
  refine ⟨fun h => ⟨fun hlow => ?_, fun hhigh => ?_⟩, fun h => ⟨fun hodd => ?_, fun heven => ?_⟩⟩
  · rw [if_pos h, if_pos hlow]
  · rw [if_pos h, if_neg (not_lt.2 hhigh)]
  · rw [if_neg (not_le.2 h), if_pos hodd]
  · rw [if_neg (not_le.2 h), if_neg (by omega)]

section
variable {range : Nat} {xs : List Nat}

/-- The final value of point `j` with raw value `v` between its neighbors (44_floor1.md R260). -/
def step2Final (range : Nat) (xs : List Nat) (fin : List Int) (j lo hi v : Nat) : Int :=
  let pred := renderPoint (xs.getD lo 0) (fin.getD lo 0) (xs.getD hi 0) (fin.getD hi 0) (xs.getD j 0)
  if v = 0 then pred else step2Value range pred v

/-- The used flags with those of the next point, whose raw value is `v` (44_floor1.md R261). -/
def step2Used (used : List Bool) (lo hi v : Nat) : List Bool :=
  if v = 0 then used ++ [false] else (used.set lo true).set hi true ++ [true]

theorem step2Loop_cons {j lo hi : Nat} (hlo : lowNeighbor xs j = some lo) (hhi : highNeighbor xs j = some hi) (v : Nat)
    (vs : List Nat) (fin : List Int) (used : List Bool) :
    step2Loop range xs (v :: vs) j fin used =
      step2Loop range xs vs (j + 1) (fin ++ [step2Final range xs fin j lo hi v]) (step2Used used lo hi v) := by
  simp only [step2Loop, hlo, hhi, step2Final, step2Used]
  split <;> rfl

theorem step2Used_length (used : List Bool) (lo hi v : Nat) : (step2Used used lo hi v).length = used.length + 1 := by
  rw [step2Used]
  split <;> simp

theorem getD_concat (l : List Bool) (b : Bool) (i : Nat) :
    (l ++ [b]).getD i false = true ↔ l.getD i false = true ∨ i = l.length ∧ b = true := by
  obtain hlt | rfl | hgt := lt_trichotomy i l.length
  · simp only [List.getD_append _ _ _ _ hlt, hlt.ne, false_and, or_false]
  · simp
  · rw [List.getD_eq_default _ _ (List.length_append.trans_le hgt), List.getD_eq_default _ _ hgt.le]
    simp only [hgt.ne', false_and, or_false]

theorem getD_set_true {l : List Bool} {k : Nat} (hk : k < l.length) (i : Nat) :
    (l.set k true).getD i false = true ↔ l.getD i false = true ∨ k = i := by
  rw [List.getD_eq_getElem?_getD, List.getElem?_set, List.getD_eq_getElem?_getD]
  by_cases h : k = i
  · simp [h, h ▸ hk]
  · simp [h]

theorem step2Used_getD {used : List Bool} {lo hi : Nat} (hlo : lo < used.length) (hhi : hi < used.length) (v i : Nat) :
    (step2Used used lo hi v).getD i false = true ↔
      used.getD i false = true ∨ v ≠ 0 ∧ (i = used.length ∨ lo = i ∨ hi = i) := by
  rw [step2Used]
  split
  case isTrue hv => simp only [getD_concat, hv, ne_eq, not_true, Bool.false_eq_true, and_false, false_and]
  case isFalse hv =>
    rw [getD_concat, getD_set_true (hhi.trans_eq List.length_set.symm), getD_set_true hlo, List.length_set, List.length_set]
    simp only [hv, ne_eq, not_false_iff, true_and, and_true]
    tauto

/-- Values that are only appended to keep the final value of a point. -/
theorem step2Final_append {fin fin' : List Int} (h : fin <+: fin') {lo hi : Nat} (hlo : lo < fin.length) (hhi : hi < fin.length)
    (j v : Nat) : step2Final range xs fin' j lo hi v = step2Final range xs fin j lo hi v := by
  obtain ⟨more, rfl⟩ := h
  rw [step2Final, step2Final, List.getD_append _ _ _ _ hlo, List.getD_append _ _ _ _ hhi]

/-- Of the raw values `vs` of the points from `j` on, one that is not 0 is of point `i` or of a point whose neighbor it is
(44_floor1.md R261). -/
def Step2Marks (xs : List Nat) (j : Nat) (vs : List Nat) (i : Nat) : Prop :=
  ∃ k, vs.getD k 0 ≠ 0 ∧ (i = k + j ∨ lowNeighbor xs (k + j) = some i ∨ highNeighbor xs (k + j) = some i)

theorem step2Marks_cons (j v : Nat) (vs : List Nat) (i : Nat) :
    Step2Marks xs j (v :: vs) i ↔
      v ≠ 0 ∧ (i = j ∨ lowNeighbor xs j = some i ∨ highNeighbor xs j = some i) ∨ Step2Marks xs (j + 1) vs i := by
  rw [Step2Marks, ← Nat.or_exists_add_one]
  simp only [Step2Marks, List.getD_cons_zero, List.getD_cons_succ, Nat.zero_add, Nat.add_right_comm _ 1 j, Nat.add_assoc]

/-- The points that step 2 marks as used, apart: those with a raw value, and the neighbors of such points. -/
theorem step2Marks_iff (j : Nat) (vs : List Nat) (i : Nat) :
    Step2Marks xs j vs (i + j) ↔
      vs.getD i 0 ≠ 0 ∨ ∃ k < vs.length, vs.getD k 0 ≠ 0
        ∧ (lowNeighbor xs (k + j) = some (i + j) ∨ highNeighbor xs (k + j) = some (i + j)) := by
  constructor
  · rintro ⟨k, hv, hself | hneighbor⟩
    · exact .inl (Nat.add_right_cancel hself ▸ hv)
    · have hk : k < vs.length := Nat.lt_of_not_le fun hle => hv (List.getD_eq_default _ _ hle)
      exact .inr ⟨k, hk, hv, hneighbor⟩
  · rintro (hv | ⟨k, -, hv, hneighbor⟩)
    · exact ⟨i, hv, .inl rfl⟩
    · exact ⟨k, hv, .inr hneighbor⟩

/-- What the loop leaves of the points from `j` on (44_floor1.md R260, R261). -/
structure Step2Done (range : Nat) (xs vs : List Nat) (j : Nat) (fin : List Int) (used : List Bool) (fin' : List Int)
    (used' : List Bool) : Prop where
  kept : fin <+: fin'
  finLength : fin'.length = vs.length + j
  usedLength : used'.length = vs.length + j
  value : ∀ k lo hi v, lowNeighbor xs (k + j) = some lo → highNeighbor xs (k + j) = some hi → vs[k]? = some v →
    fin'[k + j]? = some (step2Final range xs fin' (k + j) lo hi v)
  marks : ∀ i, used'.getD i false = true ↔ used.getD i false = true ∨ Step2Marks xs j vs i

theorem step2Loop_done (vs : List Nat) : ∀ {j : Nat} {fin : List Int} {used : List Bool},
    fin.length = j → used.length = j →
    (∀ k < vs.length, lowNeighbor xs (k + j) ≠ none ∧ highNeighbor xs (k + j) ≠ none) →
    ∃ fin' used', step2Loop range xs vs j fin used = some (fin', used') ∧ Step2Done range xs vs j fin used fin' used' := by
  induction vs with
  | nil =>
    intro j fin used hfin hused _
    exact ⟨fin, used, rfl, List.prefix_rfl, by simp [hfin], by simp [hused], by simp, by simp [Step2Marks]⟩
  | cons v vs ih =>
    intro j fin used hfin hused hneighbors
    have hfirst := hneighbors 0 (Nat.zero_lt_succ _)
    rw [Nat.zero_add] at hfirst
    obtain ⟨lo, hlo⟩ := Option.ne_none_iff_exists'.1 hfirst.1
    obtain ⟨hi, hhi⟩ := Option.ne_none_iff_exists'.1 hfirst.2
    have hloLt : lo < j := (lowNeighbor_eq_some.1 hlo).1
    have hhiLt : hi < j := (highNeighbor_eq_some.1 hhi).1
    have hshift (k : Nat) : k + 1 + j = k + (j + 1) := by omega
    obtain ⟨fin', used', hloop, done⟩ := ih (j := j + 1) (fin := fin ++ [step2Final range xs fin j lo hi v])
      (used := step2Used used lo hi v) (by simp [hfin]) (by rw [step2Used_length, hused])
      fun k hk => hshift k ▸ hneighbors (k + 1) (Nat.succ_lt_succ hk)
    have hkept : fin <+: fin' := (List.prefix_append _ _).trans done.kept
    refine ⟨fin', used', (step2Loop_cons hlo hhi v vs fin used).trans hloop, hkept, ?_, ?_,
      fun k lo' hi' v' hlo' hhi' hv => ?_, fun i => ?_⟩
    · rw [done.finLength, List.length_cons, hshift]
    · rw [done.usedLength, List.length_cons, hshift]
    · cases k with
      | zero =>
        rw [Nat.zero_add] at hlo' hhi' ⊢
        obtain rfl := Option.some.inj (hlo.symm.trans hlo')
        obtain rfl := Option.some.inj (hhi.symm.trans hhi')
        obtain rfl := Option.some.inj hv
        rw [step2Final_append hkept (hfin ▸ hloLt) (hfin ▸ hhiLt)]
        have hj : j < (fin ++ [step2Final range xs fin j lo hi v]).length := by simp [hfin]
        rw [List.prefix_iff_getElem?.1 done.kept j hj, List.getElem_concat_length hfin.symm]
      | succ k =>
        rw [hshift] at hlo' hhi' ⊢
        exact done.value k lo' hi' v' hlo' hhi' hv
    · rw [done.marks, step2Used_getD (hused ▸ hloLt) (hused ▸ hhiLt), step2Marks_cons, or_assoc, hlo, hhi, hused,
        Option.some.injEq, Option.some.injEq]

end

end Sys2Proof.Machine
end

section
/-! The sorted points of a floor, its lines and its curve (44_floor1.md R262 to R264). -/

namespace Sys2Proof.Machine

open Sys2Proof

/-! ### The points and their sort (44_floor1.md R262) -/

theorem floorPoints_length (xs : List Nat) : ∀ (ys : List Int) (us : List Bool),
    (floorPoints xs ys us).length = min xs.length (min ys.length us.length) := by
  induction xs with
  | nil => simp [floorPoints]
  | cons x xs ih =>
    intro ys us
    cases ys with
    | nil => simp [floorPoints]
    | cons y ys =>
      cases us with
      | nil => simp [floorPoints]
      | cons u us =>
        simp only [floorPoints, List.length_cons, ih]
        omega

theorem floorPoints_getElem? (xs : List Nat) : ∀ (ys : List Int) (us : List Bool) (k : Nat) (p : FloorPoint),
    (floorPoints xs ys us)[k]? = some p → xs[k]? = some p.x ∧ ys[k]? = some p.y ∧ us[k]? = some p.used := by
  induction xs with
  | nil => simp [floorPoints]
  | cons x xs ih =>
    intro ys us k p hp
    cases ys with
    | nil => simp [floorPoints] at hp
    | cons y ys =>
      cases us with
      | nil => simp [floorPoints] at hp
      | cons u us =>
        cases k with
        | zero =>
          obtain rfl := Option.some.inj hp
          exact ⟨rfl, rfl, rfl⟩
        | succ k => exact ih ys us k p hp

theorem insertPoint_perm (p : FloorPoint) (l : List FloorPoint) : (insertPoint p l).Perm (p :: l) := by
  induction l with
  | nil => exact .refl _
  | cons q l ih =>
    rw [insertPoint]
    split
    · exact .refl _
    · exact (ih.cons q).trans (.swap p q l)

theorem insertPoint_sorted (p : FloorPoint) {l : List FloorPoint} (h : l.Pairwise (fun p q => p.x ≤ q.x)) :
    (insertPoint p l).Pairwise (fun p q => p.x ≤ q.x) := by
  induction l with
  | nil => exact List.pairwise_singleton _ p
  | cons q l ih =>
    obtain ⟨hq, hl⟩ := List.pairwise_cons.1 h
    rw [insertPoint]
    split
    case isTrue hlt =>
      refine List.pairwise_cons.2 ⟨fun a ha => ?_, h⟩
      obtain rfl | ha := List.mem_cons.1 ha
      · exact hlt.le
      · exact hlt.le.trans (hq a ha)
    case isFalse hlt =>
      refine List.pairwise_cons.2 ⟨fun a ha => ?_, ih hl⟩
      obtain rfl | ha := List.mem_cons.1 ((insertPoint_perm p l).mem_iff.1 ha)
      · exact Nat.not_lt.1 hlt
      · exact hq a ha

/-- A point goes behind those of its X value (44_floor1.md R262). -/
theorem insertPoint_filter (p : FloorPoint) (x : Nat) {l : List FloorPoint} (h : l.Pairwise (fun p q => p.x ≤ q.x)) :
    (insertPoint p l).filter (fun p => p.x == x) = (l ++ [p]).filter (fun p => p.x == x) := by
  induction l with
  | nil => rfl
  | cons q l ih =>
    obtain ⟨hq, hl⟩ := List.pairwise_cons.1 h
    rw [insertPoint]
    split
    case isTrue hlt =>
      by_cases hp : p.x = x
      · have hnone : (q :: l).filter (fun p => p.x == x) = [] := by
          refine List.filter_eq_nil_iff.2 fun a ha => ?_
          have hge : q.x ≤ a.x := (List.mem_cons.1 ha).elim (fun h => h ▸ le_rfl) (hq a)
          rw [beq_iff_eq]
          omega
        rw [List.filter_append, hnone, List.filter_cons, hnone, List.filter_cons]
        rfl
      · simp [List.filter_cons, hp]
    case isFalse => rw [List.filter_cons, ih hl, List.cons_append, List.filter_cons]

theorem sortPoints_concat (ps : List FloorPoint) (p : FloorPoint) : sortPoints (ps ++ [p]) = insertPoint p (sortPoints ps) :=
  List.foldl_append

theorem sortPoints_sorted (ps : List FloorPoint) : (sortPoints ps).Pairwise (fun p q => p.x ≤ q.x) := by
  induction ps using List.reverseRecOn with
  | nil => exact .nil
  | append_singleton ps p ih => exact sortPoints_concat ps p ▸ insertPoint_sorted p ih

theorem sortPoints_perm (ps : List FloorPoint) : (sortPoints ps).Perm ps := by
  induction ps using List.reverseRecOn with
  | nil => exact .refl _
  | append_singleton ps p ih =>
    rw [sortPoints_concat]
    exact (insertPoint_perm p _).trans ((ih.cons p).trans (List.perm_append_singleton p ps).symm)

theorem sortPoints_filter (ps : List FloorPoint) (x : Nat) :
    (sortPoints ps).filter (fun p => p.x == x) = ps.filter (fun p => p.x == x) := by
  induction ps using List.reverseRecOn with
  | nil => rfl
  | append_singleton ps p ih =>
    rw [sortPoints_concat, insertPoint_filter p x (sortPoints_sorted ps), List.filter_append, ih, List.filter_append]

/-! ### The line of a segment (44_floor1.md R263) -/

/-- The carried error counts, beside the base steps, the whole steps of the line (44_floor1.md R263). -/
theorem lineTail_getElem? {a d : Nat} (hd : d < a) (base s : Int) (n : Nat) : ∀ {e : Nat} (y : Int), e < a → ∀ i < n,
    (lineTail a d base (base + s) n y e)[i]? = some (y + base * (i + 1 : Nat) + s * ((e + d * (i + 1)) / a : Nat)) := by
  induction n with
  | zero => exact fun _ _ i hi => absurd hi (Nat.not_lt_zero i)
  | succ n ih =>
    intro e y he i hi
    have ha : 0 < a := by omega
    rw [lineTail]
    split
    case isTrue hstep =>
      have hstep' : a ≤ e + d := by exact_mod_cast hstep
      have herr : (e : Int) + d - a = (e + d - a : Nat) := by omega
      have hcount (k : Nat) : (e + d + k) / a = (e + d - a + k) / a + 1 := by
        rw [← Nat.add_div_right _ ha]
        congr 1
        omega
      cases i with
      | zero =>
        have hone : (e + d) / a = 1 := Nat.div_eq_of_lt_le (by omega) (by omega)
        rw [List.getElem?_cons_zero, Nat.zero_add, Nat.mul_one, hone]
        push_cast
        ring_nf
      | succ i =>
        have hmul : e + d * (i + 1 + 1) = e + d + d * (i + 1) := by ring
        rw [List.getElem?_cons_succ, herr, ih (y + (base + s)) (by omega) i (by omega), hmul, hcount]
        push_cast
        ring_nf
    case isFalse hstep =>
      have hstep' : e + d < a := by
        have : ¬ a ≤ e + d := by exact_mod_cast hstep
        omega
      cases i with
      | zero =>
        rw [List.getElem?_cons_zero, Nat.zero_add, Nat.mul_one, Nat.div_eq_of_lt hstep']
        push_cast
        ring_nf
      | succ i =>
        have herr : (e : Int) + d = (e + d : Nat) := by omega
        have hmul : e + d * (i + 1 + 1) = e + d + d * (i + 1) := by ring
        rw [List.getElem?_cons_succ, herr, ih (y + base) hstep' i (by omega), hmul]
        push_cast
        ring_nf

theorem lineTail_length (adx ady base sy : Int) (n : Nat) : ∀ y err : Int, (lineTail adx ady base sy n y err).length = n := by
  induction n with
  | zero => exact fun _ _ => rfl
  | succ n ih =>
    intro y err
    rw [lineTail]
    split <;> rw [List.length_cons, ih]

section
variable {x0 x1 : Nat} {y0 y1 : Int}

theorem lineSegment_empty (h : x1 ≤ x0) : lineSegment x0 y0 x1 y1 = [] := if_pos h

/-- The direction of a line, as a step of its value. -/
def lineSign (y0 y1 : Int) : Int := if y1 < y0 then -1 else 1

theorem lineSign_natAbs : (lineSign y0 y1).natAbs = 1 := by
  rw [lineSign]
  split <;> rfl

theorem lineSign_mul_natAbs : lineSign y0 y1 * ((y1 - y0).natAbs : Int) = y1 - y0 := by
  rw [lineSign]
  split <;> omega

/-- A segment's steps: the whole part of the slope, and its remainder carried (44_floor1.md R263). -/
theorem lineSegment_eq (h : x0 < x1) :
    lineSegment x0 y0 x1 y1 =
      y0 :: lineTail (x1 - x0 : Nat) ((y1 - y0).natAbs % (x1 - x0) : Nat)
        (lineSign y0 y1 * ((y1 - y0).natAbs / (x1 - x0) : Nat))
        (lineSign y0 y1 * ((y1 - y0).natAbs / (x1 - x0) : Nat) + lineSign y0 y1) (x1 - x0 - 1) y0 (0 : Nat) := by
  have hbase : Int.tdiv (y1 - y0) (x1 - x0 : Nat) = lineSign y0 y1 * ((y1 - y0).natAbs / (x1 - x0) : Nat) := by
    conv_lhs => rw [← lineSign_mul_natAbs]
    rw [lineSign, Int.ofNat_tdiv]
    split
    · rw [neg_one_mul, neg_one_mul, Int.neg_tdiv]
    · rw [one_mul, one_mul]
  have habs : (lineSign y0 y1 * ((y1 - y0).natAbs / (x1 - x0) : Nat)).natAbs = (y1 - y0).natAbs / (x1 - x0) := by
    rw [Int.natAbs_mul, lineSign_natAbs, Int.natAbs_natCast, Nat.one_mul]
  have hrem : ((y1 - y0).natAbs : Int) - ((y1 - y0).natAbs / (x1 - x0) : Nat) * (x1 - x0 : Nat) =
      ((y1 - y0).natAbs % (x1 - x0) : Nat) := by
    rw [sub_eq_iff_eq_add']
    exact_mod_cast (Nat.div_add_mod' (y1 - y0).natAbs (x1 - x0)).symm
  have hsy (b : Int) : (if y1 - y0 < 0 then b - 1 else b + 1) = b + lineSign y0 y1 := by
    rw [lineSign]
    split_ifs <;> omega
  rw [lineSegment, if_neg (Nat.not_le.2 h)]
  simp only [← Nat.cast_sub h.le, hbase, habs, hrem, hsy, Nat.cast_zero]

theorem lineSegment_length : (lineSegment x0 y0 x1 y1).length = x1 - x0 := by
  obtain h | h := Nat.lt_or_ge x0 x1
  · rw [lineSegment_eq h, List.length_cons, lineTail_length]
    omega
  · rw [lineSegment_empty h, Nat.sub_eq_zero_of_le h]
    rfl

/-- A segment is the line of `render_point` (44_floor1.md R259, R263). -/
theorem lineSegment_getElem? {k : Nat} (hk : k < x1 - x0) :
    (lineSegment x0 y0 x1 y1)[k]? = some (renderPoint x0 y0 x1 y1 (x0 + k)) := by
  have h : x0 < x1 := by omega
  have hdistance : renderDistance x0 y0 x1 y1 (x0 + k) =
      (y1 - y0).natAbs / (x1 - x0) * k + (y1 - y0).natAbs % (x1 - x0) * k / (x1 - x0) := by
    have hsplit : (y1 - y0).natAbs * k =
        (y1 - y0).natAbs % (x1 - x0) * k + (x1 - x0) * ((y1 - y0).natAbs / (x1 - x0) * k) := by
      conv_lhs => rw [← Nat.div_add_mod (y1 - y0).natAbs (x1 - x0)]
      ring
    rw [renderDistance, Nat.add_sub_cancel_left, hsplit, Nat.add_mul_div_left _ _ (by omega), Nat.add_comm]
  have hpoint : renderPoint x0 y0 x1 y1 (x0 + k) = y0 + lineSign y0 y1 * renderDistance x0 y0 x1 y1 (x0 + k) := by
    rw [renderPoint_eq h.le (Nat.le_add_right x0 k), lineSign]
    split <;> ring
  rw [lineSegment_eq h, hpoint, hdistance]
  cases k with
  | zero => simp
  | succ k =>
    rw [List.getElem?_cons_succ, lineTail_getElem? (Nat.mod_lt _ (by omega)) _ _ _ y0 (by omega) k (by omega), Nat.zero_add]
    push_cast
    ring_nf

/-! ### A segment in the curve (44_floor1.md R263) -/

theorem writeSegment_getElem? (curve seg : List Int) (x0 : Nat) {x : Nat} (hx : x < curve.length) :
    (writeSegment curve x0 seg)[x]? = if x0 ≤ x ∧ x < x0 + seg.length then seg[x - x0]? else curve[x]? := by
  rw [writeSegment, List.append_assoc]
  obtain hlt | hge := Nat.lt_or_ge x x0
  · rw [if_neg (by omega), List.getElem?_append_left (by rw [List.length_take]; omega), List.getElem?_take_of_lt hlt]
  · have hbefore : (curve.take x0).length = x0 := List.length_take_of_le (hge.trans hx.le)
    rw [List.getElem?_append_right (hbefore.trans_le hge), hbefore]
    by_cases hin : x < x0 + seg.length
    · rw [if_pos ⟨hge, hin⟩, List.getElem?_append_left (by rw [List.length_take]; omega), List.getElem?_take_of_lt (by omega)]
    · rw [if_neg (by omega), List.getElem?_append_right (by rw [List.length_take]; omega), List.getElem?_drop, List.length_take]
      congr 1
      omega

theorem renderLine_length (curve : List Int) : (renderLine curve x0 y0 x1 y1).length = curve.length :=
  writeSegment_length curve x0 _

variable {curve : List Int} {x : Nat}

theorem renderLine_inside (hx : x < curve.length) (h0 : x0 ≤ x) (h1 : x < x1) :
    (renderLine curve x0 y0 x1 y1)[x]? = some (renderPoint x0 y0 x1 y1 x) := by
  rw [renderLine, writeSegment_getElem? _ _ _ hx, lineSegment_length, if_pos (by omega), lineSegment_getElem? (by omega),
    Nat.add_sub_cancel' h0]

theorem renderLine_outside (hx : x < curve.length) (h : x < x0 ∨ x1 ≤ x) :
    (renderLine curve x0 y0 x1 y1)[x]? = curve[x]? := by
  rw [renderLine, writeSegment_getElem? _ _ _ hx, lineSegment_length, if_neg (by omega)]

end

/-! ### The curve of the used points (44_floor1.md R264) -/

section
variable {m h : Nat}

/-- The state of the curve at point `p`. -/
def CurveState.atPoint (m : Nat) (p : FloorPoint) (curve : List Int) : CurveState := { curve := curve, x := p.x, y := p.y * m }

/-- Only the used points count. -/
theorem foldl_curveStep_filter (m : Nat) (ps : List FloorPoint) : ∀ c : CurveState,
    ps.foldl (curveStep m) c = (ps.filter FloorPoint.used).foldl (curveStep m) c := by
  induction ps with
  | nil => exact fun _ => rfl
  | cons p ps ih =>
    intro c
    by_cases hp : p.used = true
    · rw [List.filter_cons_of_pos hp, List.foldl_cons, List.foldl_cons, ih]
    · rw [List.filter_cons_of_neg hp, List.foldl_cons, ih, curveStep, if_neg hp]

/-- Between each two consecutive points of `ps` the curve is their line (44_floor1.md R264). -/
def LinesDrawn (m : Nat) (ps : List FloorPoint) (curve : List Int) : Prop :=
  ∀ k a b, ps[k]? = some a → ps[k + 1]? = some b → ∀ x < curve.length, a.x ≤ x → x < b.x →
    curve[x]? = some (renderPoint a.x (a.y * m) b.x (b.y * m) x)

/-- What the segments of the used points `qs` leave, drawn from point `p` on: the curve below `p`, the lines, and the last
point. -/
structure CurveDrawn (m : Nat) (p : FloorPoint) (qs : List FloorPoint) (curve : List Int) (c : CurveState) : Prop where
  length : c.curve.length = curve.length
  below : ∀ x < p.x, c.curve[x]? = curve[x]?
  lines : LinesDrawn m (p :: qs) c.curve
  last : ∃ l, (p :: qs).getLast? = some l ∧ c.x = l.x ∧ c.y = l.y * m
  bound : ∀ q ∈ p :: qs, q.x ≤ c.x

theorem foldl_curveStep_drawn (m : Nat) (qs : List FloorPoint) : ∀ (p : FloorPoint) (curve : List Int),
    (p :: qs).Pairwise (fun p q => p.x ≤ q.x) → (∀ q ∈ qs, q.used = true) →
    CurveDrawn m p qs curve (qs.foldl (curveStep m) (.atPoint m p curve)) := by
  induction qs with
  | nil =>
    intro p curve _ _
    exact ⟨rfl, fun _ _ => rfl, fun k a b _ hb => by simp at hb, ⟨p, rfl, rfl, rfl⟩, by simp [CurveState.atPoint]⟩
  | cons q qs ih =>
    intro p curve hsorted hused
    obtain ⟨hp, hsorted'⟩ := List.pairwise_cons.1 hsorted
    have hpq : p.x ≤ q.x := hp q List.mem_cons_self
    have hstep : curveStep m (.atPoint m p curve) q = .atPoint m q (renderLine curve p.x (p.y * m) q.x (q.y * m)) :=
      if_pos (hused q List.mem_cons_self)
    rw [List.foldl_cons, hstep]
    obtain ⟨length, below, lines, ⟨l, hl, hx, hy⟩, bound⟩ :=
      ih q (renderLine curve p.x (p.y * m) q.x (q.y * m)) hsorted' fun r hr => hused r (List.mem_cons_of_mem q hr)
    rw [renderLine_length] at length
    refine ⟨length, fun x hx => ?_, fun k a b ha hb x hx hax hxb => ?_, ⟨l, by rwa [List.getLast?_cons_cons], hx, hy⟩,
      List.forall_mem_cons.2 ⟨hpq.trans (bound q List.mem_cons_self), bound⟩⟩
    · rw [below x (hx.trans_le hpq)]
      obtain hlt | hge := Nat.lt_or_ge x curve.length
      · exact renderLine_outside hlt (.inl hx)
      · rw [List.getElem?_eq_none hge, List.getElem?_eq_none ((renderLine_length curve).trans_le hge)]
    · cases k with
      | zero =>
        obtain rfl := Option.some.inj ha
        obtain rfl := Option.some.inj hb
        rw [below x hxb]
        exact renderLine_inside (hx.trans_eq length) hax hxb
      | succ k => exact lines k a b ha hb x hx hax hxb

/-- The curve ends level from its last point on (44_floor1.md R264). -/
theorem floorCurve_cons {p0 : FloorPoint} {ps : List FloorPoint} (h0 : p0.x = 0) (hused : ∃ p ∈ ps, p.used = true) :
    let c := (ps.filter FloorPoint.used).foldl (curveStep m) (.atPoint m p0 (List.replicate h 0))
    floorCurve m h (p0 :: ps) = if c.x < h then renderLine c.curve c.x c.y h c.y else c.curve := by
  have hany : ps.any FloorPoint.used = true := List.any_eq_true.2 hused
  simp only [floorCurve, hany, if_true, foldl_curveStep_filter m ps, CurveState.atPoint, h0]

theorem floorCurve_lines {p0 : FloorPoint} {ps : List FloorPoint} (h0 : p0.x = 0)
    (hsorted : (p0 :: ps).Pairwise (fun p q => p.x ≤ q.x)) (hused : ∃ p ∈ ps, p.used = true) :
    LinesDrawn m (curvePoints (p0 :: ps)) (floorCurve m h (p0 :: ps))
      ∧ ∀ l, (curvePoints (p0 :: ps)).getLast? = some l → ∀ x < h, l.x ≤ x →
          (floorCurve m h (p0 :: ps))[x]? = some (l.y * m) := by
  have hcurve := floorCurve_cons (m := m) (h := h) h0 hused
  obtain ⟨length, -, lines, ⟨l, hl, hx, hy⟩, bound⟩ := foldl_curveStep_drawn m (ps.filter FloorPoint.used) p0
    (List.replicate h 0) (hsorted.sublist (List.filter_sublist.cons_cons p0)) fun q hq => (List.mem_filter.1 hq).2
  rw [List.length_replicate] at length
  generalize (ps.filter FloorPoint.used).foldl (curveStep m) (.atPoint m p0 (List.replicate h 0)) = c at *
  dsimp only at hcurve
  rw [hcurve]
  refine ⟨?lines, fun l' hl' x hxh hlx => ?level⟩
  case lines =>
    split
    · intro k a b ha hb x hxh hax hxb
      have hbx : b.x ≤ c.x := bound b (List.mem_of_getElem? hb)
      rw [renderLine_length] at hxh
      rw [renderLine_outside hxh (.inl (hxb.trans_le hbx))]
      exact lines k a b ha hb x hxh hax hxb
    · exact lines
  case level =>
    obtain rfl := Option.some.inj (hl.symm.trans hl')
    have hcx : c.x ≤ x := hx.trans_le hlx
    rw [if_pos (hcx.trans_lt hxh), renderLine_inside (hxh.trans_eq length.symm) hcx hxh,
      renderPoint_level (hcx.trans hxh.le) hcx, hy]

end

/-- Settles O37: step 2 by its loop, the sort by insertion, and the curve line by line. -/
theorem floorSynthesis : Obligations.FloorSynthesis := by
  unfold Obligations.FloorSynthesis
  refine ⟨step2Value_branches, fun f y0 y1 ys hneighbors => ?step2,
    fun xs ys us => ⟨floorPoints_length xs ys us, floorPoints_getElem? xs ys us⟩,
    fun ps => ⟨sortPoints_perm ps, sortPoints_sorted ps, sortPoints_filter ps⟩,
    fun x0 x1 y0 y1 => ⟨lineSegment_length, fun k hk => lineSegment_getElem? hk, fun curve => ⟨renderLine_length curve,
      fun x hx => ⟨renderLine_inside hx, renderLine_outside hx⟩⟩⟩,
    fun m h p0 ps h0 hsorted hused => ⟨floorCurve_length m h (p0 :: ps), ?curve⟩⟩
  case curve =>
    have hlines := floorCurve_lines (m := m) (h := h) h0 hsorted hused
    rwa [LinesDrawn, floorCurve_length] at hlines
  case step2 =>
    obtain ⟨fin, used, hloop, done⟩ := step2Loop_done (range := floorRange f.multiplier) ys (j := 2)
      (fin := [(y0 : Int), (y1 : Int)]) (used := [true, true]) rfl rfl fun k hk => hneighbors (k + 2) (by omega) (by omega)
    obtain ⟨more, rfl⟩ := done.kept
    refine ⟨_, used, hloop, done.finLength, done.usedLength, rfl, rfl, fun j lo hi v hlo hhi hv => ?_, fun j hj => ?_⟩
    · have hvalue := done.value j lo hi v hlo hhi hv
      rw [step2Final] at hvalue
      exact ⟨fun h => hvalue.trans (congrArg some (if_pos h)), fun h => hvalue.trans (congrArg some (if_neg h))⟩
    · rw [done.marks]
      obtain _ | _ | i := j
      · simp
      · simp
      · have hlater : ¬ i + 2 < 2 := by omega
        simp only [List.getD_cons_succ, List.getD_nil, Bool.false_eq_true, hlater, false_or]
        exact step2Marks_iff 2 ys i

end Sys2Proof.Machine
end

section
/-! The digits of a classification codeword (45_residue.md R285). -/

namespace Sys2Proof.Machine

open Sys2Proof

section
variable (radix : Nat)

@[simp] theorem digitsOf_length (n v : Nat) : (digitsOf radix n v).length = n := by simp [digitsOf]

/-- The digits of a value are those of its quotient by the radix, and its remainder. -/
theorem digitsOf_succ (n v : Nat) : digitsOf radix (n + 1) v = digitsOf radix n (v / radix) ++ [v % radix] := by
  have hdigit : ∀ i ∈ List.range n,
      v / radix ^ (n + 1 - 1 - i) % radix = v / radix / radix ^ (n - 1 - i) % radix := fun i hi => by
    have hexp : n + 1 - 1 - i = n - 1 - i + 1 := by
      have := List.mem_range.1 hi
      omega
    rw [hexp, Nat.pow_succ', Nat.div_div_eq_div_mul]
  rw [digitsOf, List.range_succ, List.map_append, List.map_congr_left hdigit]
  simp [digitsOf]

/-- The loop of `classify` peels the digits off, least significant first. -/
theorem classDigits_eq (n : Nat) : ∀ (v : Nat) (acc : List Nat), classDigits radix n v acc = digitsOf radix n v ++ acc := by
  induction n with
  | zero => exact fun _ _ => rfl
  | succ n ih => exact fun v acc => by simp [classDigits, ih, digitsOf_succ]

theorem lt_of_mem_digitsOf {radix n v d : Nat} (hradix : 0 < radix) (hd : d ∈ digitsOf radix n v) : d < radix := by
  obtain ⟨i, -, rfl⟩ := List.mem_map.1 hd
  exact Nat.mod_lt _ hradix

/-- The digits determine the value, up to what passes the top digit. -/
theorem foldl_digitsOf (n : Nat) : ∀ v : Nat, (digitsOf radix n v).foldl (fun v d => v * radix + d) 0 = v % radix ^ n := by
  induction n with
  | zero => exact fun v => (Nat.mod_one v).symm
  | succ n ih =>
    intro v
    rw [digitsOf_succ, List.foldl_append, ih, Nat.pow_succ', Nat.mod_mul, Nat.mul_comm radix, Nat.add_comm]
    rfl

end

/-- Settles O41: the digits are the quotients by the powers of the radix, each reduced by it. -/
theorem classificationDigits : Obligations.ClassificationDigits := by
  unfold Obligations.ClassificationDigits
  refine ⟨fun radix n temp hradix => ?_, by decide, by decide, by decide⟩
  rw [classDigits_eq, List.append_nil]
  exact ⟨digitsOf_length radix n temp, fun d hd => lt_of_mem_digitsOf hradix hd, foldl_digitsOf radix n temp⟩

end Sys2Proof.Machine
end

section
/-! The setup unit of a residue (45_residue.md R280 to R282). -/

namespace Sys2Proof.Machine

open Sys2Proof

/-! ### The fields and their checks -/

/-- A book field, checked against the codebook count (45_residue.md R280, R282). -/
def resBookField (nBooks : Nat) (b : BitVec 8) : CheckedField := (8, checkThat (decide (b.toNat < nBooks)) .resBook)

/-- The fields of a cascade (45_residue.md R281). -/
def cascadeChecked (c : CascadeFields) : List CheckedField :=
  if c.high.isSome then [(3, none), (1, none), (5, none)] else [(3, none), (1, none)]

/-- The fields of a residue with their checks (45_residue.md R280 to R282). -/
def residueFields (nBooks : Nat) (f : ResidueFields) : List CheckedField :=
  (16, none) :: (24, none) :: (24, none) :: (24, none) :: (6, none) :: resBookField nBooks f.classbook
    :: f.cascade.flatMap cascadeChecked ++ f.books.flatMap (fun row => row.map (resBookField nBooks))

/-! ### What the meaning writes -/

/-- A row of pass books is stored behind the others (45_residue.md R282). -/
def ResidueConfig.pushRow (row : List (Option Nat)) (v : ResidueConfig) : ResidueConfig := { v with books := v.books ++ [row] }

/-- The row of a classification: the books read at the set bits of its cascade, none at the others (45_residue.md R282). -/
def passRow (cascade : Nat) : List Nat → List (BitVec 8) → List (Option Nat)
  | [], _ => []
  | pass :: passes, bs =>
    match cascade.testBit pass, bs with
    | true, b :: more => some b.toNat :: passRow cascade passes more
    | _, _ => none :: passRow cascade passes bs

/-- The rows of the classifications (45_residue.md R282). -/
def passRows (cascades : List Nat) (rows : List (List (BitVec 8))) : List (List (Option Nat)) :=
  List.zipWith (fun c bs => passRow c (List.range 8) bs) cascades rows

/-- The entry of a residue with no failing check (45_residue.md R280 to R282). -/
def residueEntry (ty : ResType) (f : ResidueFields) : ResidueConfig where
  type := ty
  begin := f.begin.toNat
  stop := f.stop.toNat
  psize := plusOne f.psizeM1
  classifications := plusOne f.classificationsM1
  classbook := f.classbook.toNat
  cascade := f.cascade.map cascadeValue
  books := passRows (f.cascade.map cascadeValue) f.books

/-- The row under decode is the last one. -/
theorem pushBook_pushRow (b : Option Nat) (row : List (Option Nat)) (v : ResidueConfig) :
    pushBook b (v.pushRow row) = v.pushRow (row ++ [b]) := by
  have hmodify (l : List (List (Option Nat))) : (l ++ [row]).modify l.length (· ++ [b]) = l ++ [row ++ [b]] := by
    induction l with
    | nil => rfl
    | cons a l ih => exact congrArg (a :: ·) ih
  simp [pushBook, modifyAt, ResidueConfig.pushRow, hmodify]

theorem foldl_pushBook_pushRow (bs : List (Option Nat)) (v : ResidueConfig) : ∀ row : List (Option Nat),
    bs.foldl (fun v b => pushBook b v) (v.pushRow row) = v.pushRow (row ++ bs) := by
  induction bs with
  | nil => simp
  | cons b bs ih =>
    intro row
    rw [List.foldl_cons, pushBook_pushRow, ih, List.append_assoc]
    rfl

theorem foldl_cascade (cs : List CascadeFields) : ∀ v : ResidueConfig,
    cs.foldl (fun v c => { v with cascade := v.cascade ++ [cascadeValue c] }) v =
      { v with cascade := v.cascade ++ cs.map cascadeValue } := by
  induction cs with
  | nil => simp
  | cons c cs ih => simp [ih]

/-! ### The row of a classification -/

section
variable {cascade pass : Nat}

theorem passRow_set (h : cascade.testBit pass = true) (passes : List Nat) (b : BitVec 8) (more : List (BitVec 8)) :
    passRow cascade (pass :: passes) (b :: more) = some b.toNat :: passRow cascade passes more := by
  simp only [passRow, h]

theorem passRow_clear (h : cascade.testBit pass = false) (passes : List Nat) (bs : List (BitVec 8)) :
    passRow cascade (pass :: passes) bs = none :: passRow cascade passes bs := by
  simp only [passRow, h]

/-- How many of `passes` have their bit set. -/
def setBits (cascade : Nat) (passes : List Nat) : Nat := total (passes.map fun pass => if cascade.testBit pass then 1 else 0)

theorem setBits_set (h : cascade.testBit pass = true) (passes : List Nat) :
    setBits cascade (pass :: passes) = setBits cascade passes + 1 := by
  rw [setBits, List.map_cons, total, if_pos h, Nat.add_comm]
  rfl

theorem setBits_clear (h : cascade.testBit pass = false) (passes : List Nat) :
    setBits cascade (pass :: passes) = setBits cascade passes := by
  rw [setBits, List.map_cons, total, if_neg (by simp [h]), Nat.zero_add]
  rfl

/-- A pass of a row takes a book where its bit is set, and none where it is clear (45_residue.md R282). -/
theorem passRow_induction {P : List Nat → List (BitVec 8) → Prop} (hnil : P [] [])
    (hset : ∀ pass passes b more, cascade.testBit pass = true → more.length = setBits cascade passes → P passes more →
      P (pass :: passes) (b :: more))
    (hclear : ∀ pass passes bs, cascade.testBit pass = false → bs.length = setBits cascade passes → P passes bs →
      P (pass :: passes) bs)
    (passes : List Nat) : ∀ bs : List (BitVec 8), bs.length = setBits cascade passes → P passes bs := by
  induction passes with
  | nil =>
    intro bs h
    rwa [List.length_eq_zero_iff.1 h]
  | cons pass passes ih =>
    intro bs h
    cases hbit : cascade.testBit pass with
    | true =>
      rw [setBits_set hbit] at h
      obtain ⟨b, more, rfl⟩ := List.exists_cons_of_length_eq_add_one h
      have hmore : more.length = setBits cascade passes := Nat.succ.inj h
      exact hset pass passes b more hbit hmore (ih more hmore)
    | false =>
      rw [setBits_clear hbit] at h
      exact hclear pass passes bs hbit h (ih bs h)

theorem passRow_spec (passes : List Nat) (bs : List (BitVec 8)) (h : bs.length = setBits cascade passes) :
    (passRow cascade passes bs).map Option.isSome = passes.map cascade.testBit
      ∧ (passRow cascade passes bs).filterMap id = bs.map BitVec.toNat := by
  refine passRow_induction (P := fun passes bs => (passRow cascade passes bs).map Option.isSome = passes.map cascade.testBit
    ∧ (passRow cascade passes bs).filterMap id = bs.map BitVec.toNat) ⟨rfl, rfl⟩ ?_ ?_ passes bs h
  · rintro pass passes b more hbit - ⟨hsome, hbooks⟩
    refine ⟨by simp [passRow_set hbit, hbit, hsome], ?_⟩
    rw [passRow_set hbit]
    exact congrArg (b.toNat :: ·) hbooks
  · rintro pass passes bs hbit - ⟨hsome, hbooks⟩
    refine ⟨by simp [passRow_clear hbit, hbit, hsome], ?_⟩
    rw [passRow_clear hbit]
    exact hbooks

end

/-- A row holds eight places, the books read at the set bits and none at the others (45_residue.md R282). -/
theorem passRow_eight {cascade : Nat} {bs : List (BitVec 8)} (h : bs.length = passCount cascade) :
    (passRow cascade (List.range 8) bs).length = 8
      ∧ (passRow cascade (List.range 8) bs).filterMap id = bs.map BitVec.toNat
      ∧ ∀ p < 8, ((passRow cascade (List.range 8) bs)[p]? = some none ↔ cascade.testBit p = false) := by
  obtain ⟨hsome, hbooks⟩ := passRow_spec (List.range 8) bs h
  have hlen := congrArg List.length hsome
  rw [List.length_map, List.length_map, List.length_range] at hlen
  refine ⟨hlen, hbooks, fun p hp => ?_⟩
  have hplace := hp.trans_eq hlen.symm
  have hbit := congrArg (·[p]?) hsome
  simp only [List.getElem?_map, List.getElem?_range hp, Option.map_some, List.getElem?_eq_getElem hplace,
    Option.some.injEq] at hbit
  rw [← hbit, List.getElem?_eq_getElem hplace, Option.some.injEq, Option.isSome_eq_false_iff, Option.isNone_iff_eq_none]

/-! ### What the meaning reads and checks -/

theorem residueCascade_runs (p : Part ResidueConfig) (c : CascadeFields) :
    p.Runs (residueCascade p c) (cascadeChecked c) fun v => { v with cascade := v.cascade ++ [cascadeValue c] } :=
  .next fun r => by
    refine ⟨?_, fun _ => ⟨rfl, rfl⟩⟩
    rw [cascadeChecked]
    dsimp only
    split <;> rfl

theorem residueRow_runs (n cascade : Nat) (passes : List Nat) (bs : List (BitVec 8)) (h : bs.length = setBits cascade passes) :
    ∀ p : Part ResidueConfig, p.Runs (residueRow n cascade passes bs p) (bs.map (resBookField n))
      fun v => (passRow cascade passes bs).foldl (fun v b => pushBook b v) v := by
  refine passRow_induction (P := fun passes bs => ∀ p : Part ResidueConfig,
    p.Runs (residueRow n cascade passes bs p) (bs.map (resBookField n))
      fun v => (passRow cascade passes bs).foldl (fun v b => pushBook b v) v) .refl ?_ ?_ passes bs h
  · intro pass passes b more hbit _ ih p
    rw [passRow_set hbit]
    simp only [residueRow, hbit]
    exact (Part.Runs.field_checked 8 (pushBook (some b.toNat)) (b.toNat < n) .resBook).trans (ih _)
  · intro pass passes bs hbit _ ih p
    rw [passRow_clear hbit]
    have hrow : residueRow n cascade (pass :: passes) bs p =
        residueRow n cascade passes bs (p.next fun r v => { rd := r, val := pushBook none v, err := none }) := by
      simp only [residueRow, hbit]
    rw [hrow]
    exact (Part.Runs.next (fs := []) (write := pushBook none) fun _ => ⟨rfl, fun _ => ⟨rfl, rfl⟩⟩).trans (ih _)

theorem residueBooks_runs (n : Nat) (cs : List Nat) : ∀ (rows : List (List (BitVec 8))) (p : Part ResidueConfig),
    rows.map List.length = cs.map passCount →
    p.Runs (residueBooks n cs rows p) (rows.flatMap (fun row => row.map (resBookField n)))
      fun v => { v with books := v.books ++ passRows cs rows } := by
  induction cs with
  | nil =>
    intro rows p h
    rw [List.map_eq_nil_iff.1 h]
    exact ⟨rfl, fun he => ⟨he, by simp [passRows, residueBooks]⟩⟩
  | cons c cs ih =>
    intro rows p h
    cases rows with
    | nil => cases h
    | cons row rows =>
      obtain ⟨hrow, hrows⟩ := List.cons.inj h
      have hopen : p.Runs (p.next fun r v => { rd := r, val := v.pushRow [], err := none }) [] (·.pushRow []) :=
        .next fun _ => ⟨rfl, fun _ => ⟨rfl, rfl⟩⟩
      have hruns := (hopen.trans (residueRow_runs n c (List.range 8) row hrow _)).trans (ih rows _ hrows)
      simp only [foldl_pushBook_pushRow, List.nil_append] at hruns
      simp only [ResidueConfig.pushRow, List.append_assoc] at hruns
      exact hruns

theorem residueHead_runs (n : Nat) (ff : ResidueFields) (p : Part ResidueConfig) :
    p.Runs (residueHead n ff p) ([(24, none), (24, none), (24, none), (6, none)] ++ [resBookField n ff.classbook]) fun v =>
      { v with
        begin := ff.begin.toNat, stop := ff.stop.toNat, psize := plusOne ff.psizeM1
        classifications := plusOne ff.classificationsM1, classbook := ff.classbook.toNat } :=
  (Part.Runs.next (fs := [(24, none), (24, none), (24, none), (6, none)])
    (write := fun v : ResidueConfig => { v with
      begin := ff.begin.toNat, stop := ff.stop.toNat, psize := plusOne ff.psizeM1
      classifications := plusOne ff.classificationsM1 })
    fun _ => ⟨rfl, fun _ => ⟨rfl, rfl⟩⟩).trans
    (.field_checked 8 (fun v => { v with classbook := ff.classbook.toNat }) (ff.classbook.toNat < n) .resBook)

/-- A well-formed residue is read, checked and written field by field. -/
theorem decodeResidue_runs (ty : ResType) (n : Nat) {f : ResidueFields} (hwf : f.wf = true) (r : Reader) :
    Part.Runs { rd := r, val := .fresh ty, err := none } (decodeResidue ty n f r) (residueFields n f)
      fun _ => residueEntry ty f := by
  have hrows : f.books.map List.length = (f.cascade.map cascadeValue).map passCount := by
    rw [(ResidueFields.wf_iff.1 hwf).2, List.map_map]
    rfl
  have htype : Part.Runs { rd := r, val := ResidueConfig.fresh ty, err := none }
      { rd := r.skip 16, val := .fresh ty, err := none } [(16, none)] id := ⟨rfl, fun _ => ⟨rfl, rfl⟩⟩
  have hruns := (htype.trans (residueHead_runs n f _)).trans (.foldl residueCascade_runs f.cascade _) |>.trans
    (residueBooks_runs n _ f.books _ hrows)
  simp only [foldl_cascade] at hruns
  exact ⟨hruns.1, fun he => ⟨rfl, (hruns.2 he).2⟩⟩

/-! ### The fields, their checks and the first error, as the statements say them -/

theorem cascadeChecked_map {α : Type} (g : CheckedField → α) (c : CascadeFields) :
    (cascadeChecked c).map g =
      if c.high.isSome then [g (3, none), g (1, none), g (5, none)] else [g (3, none), g (1, none)] := by
  rw [cascadeChecked]
  split <;> rfl

theorem residueFields_widths (n : Nat) (f : ResidueFields) :
    (residueFields n f).map Prod.fst = fieldWidths.residueWidths f := by
  simp [residueFields, fieldWidths.residueWidths, resBookField, List.map_flatMap, cascadeChecked_map, Function.comp_def]

theorem residueFields_ok (n : Nat) (f : ResidueFields) :
    (residueFields n f).map (fun fd => fd.2.isNone) = residueFieldsOk n f := by
  simp [residueFields, residueFieldsOk, resBookField, List.map_flatMap, cascadeChecked_map, Function.comp_def,
    isNone_checkThat, List.replicate]

theorem residueFields_error (n : Nat) (f : ResidueFields) : (residueFields n f).findSome? Prod.snd = residueError n f := by
  have hcascade : (f.cascade.flatMap cascadeChecked).findSome? Prod.snd = none := by
    rw [findSome?_flatMap]
    refine List.findSome?_eq_none_iff.2 fun c _ => ?_
    rw [cascadeChecked]
    split <;> rfl
  have hrow (row : List (BitVec 8)) : (row.map (resBookField n)).findSome? Prod.snd =
      if ∃ b ∈ row, n ≤ b.toNat then some .resBook else none := by
    rw [List.findSome?_map]
    simp only [Function.comp_def, resBookField, checkThat_lt]
    convert findSome?_ite_some (fun b : BitVec 8 => n ≤ b.toNat) _ row
  have hbooks : (f.books.flatMap fun row => row.map (resBookField n)).findSome? Prod.snd =
      if ∃ row ∈ f.books, ∃ b ∈ row, n ≤ b.toNat then some .resBook else none := by
    rw [findSome?_flatMap]
    simp only [hrow]
    exact findSome?_ite_some _ _ f.books
  rw [residueFields, residueError]
  simp only [List.cons_append, List.findSome?_cons, List.findSome?_append, hcascade, hbooks, resBookField, checkThat_lt]
  by_cases hclass : n ≤ f.classbook.toNat
  · simp [hclass]
  · simp [hclass]

/-- A residue unit ends with its first error, and is read up to that field (60_exceptions.md R353). -/
theorem decodeResidue_spec (ty : ResType) (n : Nat) {f : ResidueFields} (hwf : f.wf = true) (r : Reader) :
    (decodeResidue ty n f r).rd = r.skips (readUpTo (fieldWidths.residueWidths f) (residueFieldsOk n f))
      ∧ (decodeResidue ty n f r).err = residueError n f
      ∧ (residueError n f = none → (decodeResidue ty n f r).val = residueEntry ty f) := by
  obtain ⟨hread, hval⟩ := decodeResidue_runs ty n hwf r
  rw [foldl_readChecked, residueFields_widths, residueFields_ok, residueFields_error] at hread
  obtain ⟨hrd, herr⟩ := Prod.mk.inj hread
  exact ⟨hrd, herr, fun hnone => (hval (herr.trans hnone)).2⟩

/-! ### The statement -/

theorem exec_resInstr (ty : ResType) (f : ResidueFields) (s : State) : exec (resInstr ty f) s = residueSetup ty f s := by
  cases ty <;> rfl

theorem fieldWidths_resInstr (c : Ctx) (ty : ResType) (f : ResidueFields) :
    fieldWidths c (resInstr ty f) = fieldWidths.residueWidths f := by
  cases ty <;> rfl

theorem cascadeValue_eq (c : CascadeFields) : cascadeValue c = (c.high.map BitVec.toNat).getD 0 * 8 + c.low.toNat := by
  rw [cascadeValue]
  cases c.high <;> rfl

/-- Settles O39: the unit ends with its first failing book, or the entry is the assembled one. -/
theorem residueUnit : Obligations.ResidueUnit := by
  unfold Obligations.ResidueUnit
  intro ty f s hwf
  obtain ⟨hrd, herr, hval⟩ := decodeResidue_spec ty s.nCodebooks hwf s.reader
  simp only [exec_resInstr, fieldWidths_resInstr, residueSetup, ← cascadeValue_eq]
  refine ⟨fun hnone => ?stored, fun c hsome => ?aborts⟩
  case stored =>
    rw [hnone] at herr
    have hall := decodeResidue_read hwf herr
    simp only [herr, hval hnone]
    refine ⟨_, passRows (f.cascade.map cascadeValue) f.books, rfl, rfl, ?rows, fun k c bs row hc hbs hrow => ?row,
      readBy_of_skips _ (narrow_residue f) hall rfl rfl⟩
    case rows =>
      have hlen := congrArg List.length (ResidueFields.wf_iff.1 hwf).2
      rw [List.length_map, List.length_map] at hlen
      simp [passRows, hlen]
    case row =>
      have hcount := congrArg (·[k]?) (ResidueFields.wf_iff.1 hwf).2
      simp only [List.getElem?_map, hbs, hc, Option.map_some, Option.some.injEq] at hcount
      rw [passRows, List.getElem?_zipWith, List.getElem?_map, hc, hbs] at hrow
      obtain rfl := Option.some.inj hrow
      exact passRow_eight hcount
  case aborts =>
    simp only [herr, hsome]
    exact ⟨_, rfl, ⟨rfl, rfl, rfl⟩, rfl, ⟨_, rfl⟩, readBy_of_skips _ ((narrow_residue f).take _) hrd rfl rfl⟩

end Sys2Proof.Machine
end

section
/-! What an operation on the packet answers, and that it ends without an error when its books are fit; the partitions of a residue
(43_codebook.md R227, 45_residue.md R287, R288). -/

namespace Sys2Proof.Machine

open Sys2Proof

/-! ### Answers -/

/-- Whatever value is answered satisfies `P`, and one is answered where `fit` holds. -/
def Got.Meets {α : Type} (fit : Prop) (P : α → Prop) : Got α → Prop
  | .ok a _ => P a
  | .bad _ _ _ => ¬ fit
  | .stuck _ => ¬ fit

section
variable {α β : Type} {fit : Prop} {P Q : α → Prop} {R : β → Prop} {g : Got α} {f : α → Reader → Got β}

theorem Got.meets_of (hok : ∀ a r, g = .ok a r → P a) (hfit : fit → ∃ a r, g = .ok a r) : g.Meets fit P := by
  cases g with
  | ok a r => exact hok a r rfl
  | bad c i r => exact fun h => by simpa using hfit h
  | stuck e => exact fun h => by simpa using hfit h

theorem Got.Meets.exists_ok (h : g.Meets fit P) (hfit : fit) : ∃ a r, g = .ok a r := by
  cases g with
  | ok a r => exact ⟨a, r, rfl⟩
  | bad c i r => exact absurd hfit h
  | stuck e => exact absurd hfit h

theorem Got.Meets.mono (h : g.Meets fit P) (hPQ : ∀ a, P a → Q a) : g.Meets fit Q := by
  cases g with
  | ok a r => exact hPQ a h
  | bad c i r => exact h
  | stuck e => exact h

theorem Got.Meets.bind (h : g.Meets fit P) (hf : ∀ a r, P a → (f a r).Meets fit R) : (g.bind f).Meets fit R := by
  cases g with
  | ok a r => exact hf a r h
  | bad c i r => exact h
  | stuck e => exact h

/-- After a half that meets its condition, the other half counts under that condition only. -/
theorem Got.Meets.bind_congr (h : g.Meets fit P) {f' : α → Reader → Got β} (hf : ∀ a r, P a → f a r = f' a r) :
    g.bind f = g.bind f' := by
  cases g with
  | ok a r => exact hf a r h
  | bad c i r => rfl
  | stuck e => rfl

end

/-! ### Codewords, vectors and partitions of fit books -/

/-- The partitions of a residue whose vectors fill them stay inside them (45_residue.md R287, R288). -/
theorem partition_place_lt {ty : ResType} {psize dims j t : Nat} (hfull : ty = .t0 ∨ psize % dims = 0)
    (hj : j < partitionVectors ty psize dims) (ht : t < dims) :
    j * partitionStride ty dims + t * partitionStep ty psize dims < psize := by
  rw [partitionStride, partitionStep]
  rw [partitionVectors] at hj
  split_ifs at hj ⊢ with hty
  · have hvectors : (t + 1) * (psize / dims) ≤ psize :=
      (Nat.mul_le_mul_right _ ht).trans (Nat.mul_div_le psize dims)
    rw [Nat.succ_mul] at hvectors
    omega
  · obtain ⟨q, rfl⟩ := Nat.dvd_of_mod_eq_zero (hfull.resolve_left hty)
    have hcount : (dims * q + dims - 1) / dims = q := by
      rw [Nat.add_sub_assoc (by omega), Nat.mul_add_div (by omega), Nat.div_eq_of_lt (by omega), Nat.add_zero]
    have hlast : (j + 1) * dims ≤ dims * q := by
      rw [Nat.mul_comm dims]
      exact Nat.mul_le_mul_right _ (hcount ▸ hj)
    rw [Nat.succ_mul] at hlast
    omega

section
variable {fit : Prop} {books : List Codebook} {res k : Nat} {b : Codebook}

/-- A fit book gives a vector, whatever bits follow (43_codebook.md R226, R227). -/
theorem vqDecode_of_ready (h : vectorReady books k) (r : Reader) : ∃ v r', vqDecode books k r = .ok v r' := by
  obtain ⟨book, hbook, hcomplete, hlookup, hdims, hoffsets⟩ := h
  obtain ⟨e, r', hwalk, hleaf⟩ := HuffTree.walk_complete k book.tree hcomplete r
  obtain ⟨v, hv, -⟩ := vqVectorFrom_eq (b := book) (e := e) book.dims 0 F32.zero fun i hi =>
    (Nat.zero_add i).symm ▸ hoffsets e hleaf i hi
  exact ⟨v, r', vqDecode_eq hbook hlookup hdims hwalk hv⟩

theorem addVector_meets {step : Nat} (hstep : 1 ≤ step) {e v : List F32} {idx : Nat}
    (hplaces : fit → ∀ t < e.length, idx + t * step < v.length) (r : Reader) :
    (addVector res step e idx v r).Meets fit fun w => w.length = v.length := by
  refine Got.meets_of (fun w r' h => ?_) fun hfit => ?_
  · rw [addVector] at h
    split at h
    · cases h
    · cases h
      exact addStrided_length step e idx v w ‹_›
  · obtain ⟨w, hw, -⟩ := addStrided_ok hstep e idx v (hplaces hfit)
    exact ⟨w, r, addVector_ok hw r⟩

/-- Vectors of a fit book that have their places are all added. -/
theorem vectorsLoop_meets (hb : books[k]? = some b) (hready : fit → vectorReady books k) {step stride : Nat} (n : Nat) :
    ∀ (idx : Nat) (v : List F32) (r : Reader), (0 < n → 1 ≤ step) →
    (fit → ∀ j < n, ∀ t < b.dims, idx + j * stride + t * step < v.length) →
    (vectorsLoop books res k step stride n idx v r).Meets fit fun w => w.length = v.length := by
  induction n with
  | zero => exact fun _ _ _ _ _ => rfl
  | succ n ih =>
    intro idx v r hstep hplaces
    have hvector : (vqDecode books k r).Meets fit fun e => e.length = b.dims :=
      Got.meets_of (fun e r' he => length_of_vqDecode hb he) fun hfit => vqDecode_of_ready (hready hfit) r
    refine hvector.bind fun e r1 he => ?_
    have hfirst (hfit : fit) : ∀ t < e.length, idx + t * step < v.length := fun t ht => by
      have := hplaces hfit 0 (Nat.succ_pos n) t (he ▸ ht)
      rwa [Nat.zero_mul, Nat.add_zero] at this
    refine (addVector_meets (hstep (Nat.succ_pos n)) hfirst r1).bind fun u r2 hu => ?_
    rw [← hu]
    refine ih (idx + stride) u r2 (fun _ => hstep (Nat.succ_pos n)) fun hfit j hj t ht => ?_
    have := hplaces hfit (j + 1) (Nat.succ_lt_succ hj) t ht
    rw [Nat.succ_mul] at this
    omega

/-- A partition keeps its vector's length, and completes when its book is fit, its vectors end where it ends, and it lies inside the
vector (45_residue.md R287, R288). -/
theorem partition_meets {ty : ResType} {off psize : Nat} {v : List F32} (hready : fit → vectorReady books k)
    (hfull : fit → ty = .t0 ∨ ∀ b, books[k]? = some b → psize % b.dims = 0) (hroom : off + psize ≤ v.length) (r : Reader) :
    (partition ty books res k off psize v r).Meets fit fun w => w.length = v.length := by
  cases hb : books[k]? with
  | none =>
    have hstuck : partition ty books res k off psize v r = .stuck .configAbsent := by
      cases ty <;> simp only [partition, partition0, partition1, vqCheck, hb] <;> rfl
    rw [hstuck]
    intro hfit
    obtain ⟨b, hb', -⟩ := hready hfit
    cases hb.symm.trans hb'
  | some b =>
    have hbook (hfit : fit) : b.lookup ≠ 0 ∧ b.dims ≠ 0 := by
      obtain ⟨b', hb', -, hl, hd, -⟩ := hready hfit
      obtain rfl := Option.some.inj (hb.symm.trans hb')
      exact ⟨hl, hd⟩
    by_cases hl : b.lookup = 0
    · rw [partition_noVq hb hl]
      exact fun hfit => (hbook hfit).1 hl
    · by_cases hd : b.dims = 0
      · rw [partition_zeroDim hb hl hd]
        exact fun hfit => (hbook hfit).2 hd
      · rw [partition_eq hb hl hd]
        refine vectorsLoop_meets hb hready _ _ _ _ (partition_apart ty psize).positive fun hfit j hj t ht => ?_
        have := partition_place_lt ((hfull hfit).imp_right fun h => h b hb) hj ht
        omega

end

end Sys2Proof.Machine
end

section
/-! The passes of a residue are the acts of its schedule, run in order (45_residue.md R285, R286). -/

namespace Sys2Proof.Machine

open Sys2Proof

/-! ### The vectors and the digits while the passes run -/

/-- The digits stored for channel position `k`. -/
def ResWork.digits (w : ResWork) (k : Nat) : List Nat := w.classif.getD k []

/-- The digits of channel position `k` are stored. -/
def ResWork.setDigits (w : ResWork) (k : Nat) (ds : List Nat) : ResWork := { w with classif := w.classif.set k ds }

/-- The vector of channel position `k` is stored. -/
def ResWork.setVector (w : ResWork) (k : Nat) (v : List F32) : ResWork := { w with out := w.out.set k v }

/-- The positions `act` of `n` are decoded, in `nparts` partitions, into vectors of `len` values; a codeword classifies `cpc`
partitions. -/
structure PassShape (c : ResidueConfig) (cpc nparts : Nat) (act : List Nat) (n len : Nat) : Prop where
  positive : 0 < cpc
  nodup : act.Nodup
  bound : ∀ k ∈ act, k < n
  room : ∀ pc < nparts, c.begin + pc * c.psize + c.psize ≤ len

/-- What every act keeps: `n` vectors of `len` values, those of the positions outside `act` still zero, and digits below the
number of classifications. -/
structure ResWork.Fits (c : ResidueConfig) (act : List Nat) (n len : Nat) (w : ResWork) : Prop where
  outLength : w.out.length = n
  classifLength : w.classif.length = n
  vectors : ∀ v ∈ w.out, v.length = len
  silent : ∀ k < n, k ∉ act → w.out[k]? = some (List.replicate len F32.zero)
  below : 0 < c.classifications → ∀ ds ∈ w.classif, ∀ d ∈ ds, d < c.classifications

section
variable {c : ResidueConfig} {act : List Nat} {n len : Nat} {w : ResWork}

theorem ResWork.start_fits : (ResWork.start n len).Fits c act n len where
  outLength := List.length_replicate
  classifLength := List.length_replicate
  vectors v hv := by rw [List.eq_of_mem_replicate hv, List.length_replicate]
  silent k hk _ := List.getElem?_replicate_of_lt hk
  below _ ds hds d hd := by
    rw [List.eq_of_mem_replicate hds] at hd
    cases hd

theorem ResWork.Fits.setDigits (hw : w.Fits c act n len) (k : Nat) {ds : List Nat}
    (hds : 0 < c.classifications → ∀ d ∈ ds, d < c.classifications) : (w.setDigits k ds).Fits c act n len where
  outLength := hw.outLength
  classifLength := List.length_set.trans hw.classifLength
  vectors := hw.vectors
  silent := hw.silent
  below hpos es hes := (List.mem_or_eq_of_mem_set hes).elim (hw.below hpos es) fun h => h ▸ hds hpos

theorem ResWork.Fits.setVector (hw : w.Fits c act n len) {k : Nat} (hk : k ∈ act) {v : List F32} (hv : v.length = len) :
    (w.setVector k v).Fits c act n len where
  outLength := List.length_set.trans hw.outLength
  classifLength := hw.classifLength
  vectors u hu := (List.mem_or_eq_of_mem_set hu).elim (hw.vectors u) fun h => h ▸ hv
  silent i hi hact := by
    have hne : k ≠ i := fun h => hact (h ▸ hk)
    exact (List.getElem?_set_ne hne).trans (hw.silent i hi hact)
  below := hw.below

theorem ResWork.Fits.below_digits (hw : w.Fits c act n len) {k : Nat} (hk : k < n) (hpos : 0 < c.classifications) :
    ∀ d ∈ w.digits k, d < c.classifications := by
  have hlt : k < w.classif.length := hw.classifLength.symm ▸ hk
  rw [ResWork.digits, List.getD_eq_getElem _ _ hlt]
  exact hw.below hpos _ (List.getElem_mem hlt)

theorem ResWork.digits_setDigits {k : Nat} (hk : k < w.classif.length) (ds : List Nat) (i : Nat) :
    (w.setDigits k ds).digits i = if i = k then ds else w.digits i := by
  simp only [ResWork.digits, ResWork.setDigits, List.getD_eq_getElem?_getD]
  split_ifs with h
  · rw [h, List.getElem?_set_self hk, Option.getD_some]
  · rw [List.getElem?_set_ne (Ne.symm h)]

end

/-! ### Acts -/

section
variable (books : List Codebook) (res : Nat) (c : ResidueConfig) (cpc : Nat)

theorem runActs_append (as bs : List ResAct) : ∀ (w : ResWork) (r : Reader),
    runActs books res c cpc (as ++ bs) w r = (runActs books res c cpc as w r).bind (runActs books res c cpc bs) := by
  induction as with
  | nil => exact fun _ _ => rfl
  | cons a as ih =>
    intro w r
    rw [List.cons_append, runActs, runActs, Got.bind_assoc]
    exact congrArg _ (funext₂ ih)

/-- An operation is a run of acts whose answer satisfies `P`, and answers where the books are fit. -/
structure RunsActs (acts : List ResAct) (w : ResWork) (r : Reader) (g : Got ResWork) (P : ResWork → Prop) : Prop where
  eq : g = runActs books res c cpc acts w r
  meets : g.Meets (residueReady books c) P

variable {books res c cpc} {acts acts' : List ResAct} {w : ResWork} {r : Reader} {g : Got ResWork}
  {f : ResWork → Reader → Got ResWork} {P Q : ResWork → Prop}

theorem RunsActs.nil (h : P w) : RunsActs books res c cpc [] w r (.ok w r) P := ⟨rfl, h⟩

theorem RunsActs.single {a : ResAct} (h : g = a.run books res c cpc w r) (hg : g.Meets (residueReady books c) P) :
    RunsActs books res c cpc [a] w r g P :=
  ⟨h.trans (Got.bind_ok_self _).symm, hg⟩

theorem RunsActs.bind (h : RunsActs books res c cpc acts w r g P)
    (hf : ∀ w r, P w → RunsActs books res c cpc acts' w r (f w r) Q) :
    RunsActs books res c cpc (acts ++ acts') w r (g.bind f) Q where
  eq := by
    rw [runActs_append, ← h.eq]
    exact h.meets.bind_congr fun w r hw => (hf w r hw).eq
  meets := h.meets.bind fun w r hw => (hf w r hw).meets

theorem RunsActs.mono (h : RunsActs books res c cpc acts w r g P) (hPQ : ∀ w, P w → Q w) :
    RunsActs books res c cpc acts w r g Q := ⟨h.eq, h.meets.mono hPQ⟩

end

/-! ### One act (45_residue.md R285, R286) -/

section
variable {books : List Codebook} {res : Nat} {c : ResidueConfig} {cpc nparts : Nat} {act : List Nat} {n len : Nat}
  {w : ResWork}

/-- `classify` stores its digits behind the earlier ones (45_residue.md R285). -/
theorem classify_eq (books : List Codebook) (c : ResidueConfig) (cpc k : Nat) (w : ResWork) (r : Reader) :
    classify books c cpc k w r =
      (huffDecode books c.classbook r).bind fun v r =>
        .ok (w.setDigits k (w.digits k ++ digitsOf c.classifications cpc v)) r := by
  have hmodify (ds : List Nat) : w.classif.modify k (· ++ ds) = w.classif.set k (w.digits k ++ ds) := by
    rw [List.modify_eq_set, ResWork.digits, List.getD_eq_getElem?_getD]
    rfl
  simp only [classify, classDigits_eq, List.append_nil, modifyAt, hmodify, ResWork.setDigits]

/-- A codeword before whose group all digits are stored is its act (45_residue.md R285). -/
theorem classify_runs (hw : w.Fits c act n len) {pc k : Nat} (hk : k < n) (hpc : (w.digits k).length ≤ pc) (r : Reader) :
    RunsActs books res c cpc [.classify pc k] w r (classify books c cpc k w r) fun u =>
      u.Fits c act n len ∧ ∀ i, (u.digits i).length = (w.digits i).length + if i = k then cpc else 0 := by
  rw [classify_eq]
  refine .single ?run (Got.Meets.bind (P := fun _ => True) (Got.meets_of (fun _ _ _ => trivial) ?ready)
    fun v r _ => ⟨hw.setDigits k fun hpos d hd => ?below, fun i => ?length⟩)
  case run =>
    rw [ResAct.run, ← ResWork.digits, List.take_of_length_le hpc]
    rfl
  case ready =>
    rintro ⟨⟨book, hbook, hcomplete, -⟩, -⟩
    exact huffDecode_of_ready ⟨book, hbook, hcomplete⟩ r
  case below => exact (List.mem_append.1 hd).elim (hw.below_digits hk hpos d) (lt_of_mem_digitsOf hpos)
  case length =>
    rw [ResWork.digits_setDigits (hw.classifLength.symm ▸ hk)]
    split_ifs with h
    · rw [h, List.length_append, digitsOf_length]
    · rfl

/-- The book of a partition, where an index outside a table finds nothing (45_residue.md R286). -/
theorem passBook_eq (c : ResidueConfig) (w : ResWork) (pass pc k : Nat) :
    passBook c w pass pc k = (w.digits k)[pc]?.bind fun d => (c.books.getD d [])[pass]? := by
  rw [passBook, ResWork.digits, List.getD_eq_getElem?_getD]
  cases w.classif[k]? with
  | none => rfl
  | some ds =>
    dsimp only [Option.getD_some]
    cases ds[pc]? with
    | none => rfl
    | some d =>
      dsimp only [Option.bind_some]
      rw [List.getD_eq_getElem?_getD]
      cases c.books[d]? <;> rfl

/-- A partition of a position with a vector is its act (45_residue.md R286). -/
theorem decodePartition_eq_run {k : Nat} {v : List F32} (hv : w.out[k]? = some v) (pass pc : Nat) (r : Reader) :
    decodePartition books res c pass pc k w r = (ResAct.partition pass pc k).run books res c cpc w r := by
  rw [decodePartition, passBook_eq, hv, ResAct.run, ← ResWork.digits, List.getD_eq_getElem?_getD (l := w.out), hv]
  cases (w.digits k)[pc]? with
  | none => rfl
  | some d =>
    dsimp only [Option.bind_some]
    cases (c.books.getD d [])[pass]? with
    | none => rfl
    | some o => cases o <;> rfl

theorem ResWork.Fits.vector (hw : w.Fits c act n len) {k : Nat} (hk : k < n) : ∃ v, w.out[k]? = some v ∧ v.length = len := by
  have hlt : k < w.out.length := hw.outLength.symm ▸ hk
  exact ⟨_, List.getElem?_eq_getElem hlt, hw.vectors _ (List.getElem_mem hlt)⟩

/-- A partition that is classified adds to its position's vector, and completes when the books are fit (45_residue.md R286). -/
theorem decodePartition_meets (hs : PassShape c cpc nparts act n len) (hw : w.Fits c act n len) {pass pc k : Nat} (hk : k ∈ act)
    (hdigits : pc < (w.digits k).length) (hpass : pass < 8) (hpc : pc < nparts) (r : Reader) :
    (decodePartition books res c pass pc k w r).Meets (residueReady books c) fun u =>
      u.Fits c act n len ∧ u.classif = w.classif := by
  obtain ⟨v, hv, hlen⟩ := hw.vector (hs.bound k hk)
  have hd := List.getElem?_eq_getElem hdigits
  generalize (w.digits k)[pc] = d at hd
  have hrows (hfit : residueReady books c) : (c.books.getD d []).length = 8 ∧ ∀ o ∈ c.books.getD d [], ∀ b, o = some b →
      vectorReady books b ∧ (c.type = .t0 ∨ ∀ k, books[b]? = some k → c.psize % k.dims = 0) := by
    obtain ⟨-, hpos, hlength, hrows⟩ := hfit
    have hlt : d < c.books.length := hlength ▸ hw.below_digits (hs.bound k hk) hpos d (List.mem_of_getElem? hd)
    rw [List.getD_eq_getElem _ _ hlt]
    exact hrows _ (List.getElem_mem hlt)
  rw [decodePartition, passBook_eq, hd, Option.bind_some, hv]
  cases hrow : (c.books.getD d [])[pass]? with
  | none =>
    intro hfit
    have hpast := List.getElem?_eq_none_iff.1 hrow
    rw [(hrows hfit).1] at hpast
    omega
  | some o =>
    cases o with
    | none => exact ⟨hw, rfl⟩
    | some b =>
      have hbook (hfit : residueReady books c) := (hrows hfit).2 _ (List.mem_of_getElem? hrow) b rfl
      exact (partition_meets (fun h => (hbook h).1) (fun h => (hbook h).2) (hlen.symm ▸ hs.room pc hpc) r).bind
        fun u r hu => ⟨hw.setVector hk (hu.trans hlen), rfl⟩

theorem decodePartition_runs (hs : PassShape c cpc nparts act n len) (hw : w.Fits c act n len) {pass pc k : Nat} (hk : k ∈ act)
    (hdigits : pc < (w.digits k).length) (hpass : pass < 8) (hpc : pc < nparts) (r : Reader) :
    RunsActs books res c cpc [.partition pass pc k] w r (decodePartition books res c pass pc k w r) fun u =>
      u.Fits c act n len ∧ u.classif = w.classif := by
  obtain ⟨v, hv, -⟩ := hw.vector (hs.bound k hk)
  exact .single (decodePartition_eq_run hv pass pc r) (decodePartition_meets hs hw hk hdigits hpass hpc r)

/-! ### A group of codewords, and a partition of every position -/

theorem classifyAll_runs {pc : Nat} (ks : List Nat) : ∀ {w : ResWork} (r : Reader), w.Fits c act n len → ks.Nodup →
    (∀ k ∈ ks, k < n ∧ (w.digits k).length ≤ pc) →
    RunsActs books res c cpc (ks.map (.classify pc)) w r (classifyAll books c cpc ks w r) fun u =>
      u.Fits c act n len ∧ ∀ i, (u.digits i).length = (w.digits i).length + if i ∈ ks then cpc else 0 := by
  induction ks with
  | nil => exact fun r hw _ _ => .nil ⟨hw, fun _ => by simp⟩
  | cons k ks ih =>
    intro w r hw hnodup hks
    obtain ⟨hnotin, hnodup⟩ := List.nodup_cons.1 hnodup
    obtain ⟨hk, hpc⟩ := hks k List.mem_cons_self
    refine (classify_runs hw hk hpc r).bind fun u r ⟨hu, hlen⟩ => (ih r hu hnodup fun i hi => ?_).mono
      fun u' ⟨hu', hlen'⟩ => ⟨hu', fun i => ?_⟩
    · have hne : i ≠ k := fun h => hnotin (h ▸ hi)
      rw [hlen, if_neg hne]
      exact hks i (List.mem_cons_of_mem k hi)
    · rw [hlen', hlen]
      by_cases hi : i = k
      · simp [hi, hnotin]
      · simp [hi]

theorem decodePartitions_runs (hs : PassShape c cpc nparts act n len) {pass pc : Nat} (hpass : pass < 8) (hpc : pc < nparts)
    (ks : List Nat) : ∀ {w : ResWork} (r : Reader), w.Fits c act n len → ks ⊆ act → (∀ k ∈ act, pc < (w.digits k).length) →
    RunsActs books res c cpc (ks.map (.partition pass pc)) w r (decodePartitions books res c pass pc ks w r) fun u =>
      u.Fits c act n len ∧ u.classif = w.classif := by
  induction ks with
  | nil => exact fun r hw _ _ => .nil ⟨hw, rfl⟩
  | cons k ks ih =>
    intro w r hw hks hdigits
    obtain ⟨hk, hks⟩ := List.cons_subset.1 hks
    refine (decodePartition_runs hs hw hk (hdigits k hk) hpass hpc r).bind fun u r ⟨hu, hclassif⟩ => ?_
    rw [← hclassif]
    exact ih r hu hks (by simpa only [ResWork.digits, hclassif] using hdigits)

/-! ### The passes -/

/-- The acts of partition `pc` in a pass (45_residue.md R286). -/
def scheduleAt (cpc : Nat) (act : List Nat) (pass pc : Nat) : List ResAct :=
  (if pass = 0 ∧ pc % cpc = 0 then act.map (ResAct.classify pc) else []) ++ act.map (ResAct.partition pass pc)

theorem residueSchedule_eq (cpc nparts : Nat) (act : List Nat) :
    residueSchedule cpc nparts act =
      (List.range' 0 8).flatMap fun pass => (List.range' 0 nparts).flatMap (scheduleAt cpc act pass) := by
  rw [← List.range_eq_range', ← List.range_eq_range']
  rfl

/-- How many digits a position has before partition `pc` of a pass: in pass 0 those of the groups begun, then all
(45_residue.md R286). -/
def DigitsRead (cpc nparts pass pc m : Nat) : Prop :=
  if pass = 0 then cpc ∣ m ∧ pc ≤ m ∧ m < pc + cpc else nparts ≤ m

section
variable {pass pc m : Nat}

/-- At the start of a group the digits end where the group starts. -/
theorem DigitsRead.eq_of_start (h : DigitsRead cpc nparts pass pc m) (hgroup : pass = 0 ∧ pc % cpc = 0) : m = pc := by
  rw [DigitsRead, if_pos hgroup.1] at h
  obtain ⟨⟨q, rfl⟩, hle, hlt⟩ := h
  obtain ⟨p, rfl⟩ := Nat.dvd_of_mod_eq_zero hgroup.2
  rw [← Nat.mul_succ] at hlt
  have hq : q < p + 1 := Nat.lt_of_mul_lt_mul_left hlt
  exact Nat.le_antisymm (Nat.mul_le_mul_left _ (Nat.le_of_lt_succ hq)) hle

theorem DigitsRead.next (h : DigitsRead cpc nparts pass pc m) (hpos : 0 < cpc) :
    DigitsRead cpc nparts pass (pc + 1) (m + if pass = 0 ∧ pc % cpc = 0 then cpc else 0) := by
  by_cases hgroup : pass = 0 ∧ pc % cpc = 0
  · obtain rfl := h.eq_of_start hgroup
    rw [if_pos hgroup, DigitsRead, if_pos hgroup.1]
    exact ⟨(Nat.dvd_of_mod_eq_zero hgroup.2).add (dvd_refl cpc), by omega, by omega⟩
  · rw [if_neg hgroup, Nat.add_zero]
    rw [DigitsRead] at h ⊢
    split_ifs at h ⊢ with hpass
    · obtain ⟨hdvd, hle, hlt⟩ := h
      have hne : m ≠ pc := fun h => hgroup ⟨hpass, h ▸ Nat.mod_eq_zero_of_dvd hdvd⟩
      exact ⟨hdvd, by omega, by omega⟩
    · exact h

theorem DigitsRead.lt (h : DigitsRead cpc nparts pass (pc + 1) m) (hpc : pc < nparts) : pc < m := by
  rw [DigitsRead] at h
  split_ifs at h
  · exact h.2.1
  · exact hpc.trans_le h

theorem DigitsRead.nextPass (h : DigitsRead cpc nparts pass nparts m) : DigitsRead cpc nparts (pass + 1) 0 m := by
  rw [DigitsRead] at h ⊢
  rw [if_neg (Nat.succ_ne_zero pass)]
  split_ifs at h
  · exact h.2.1
  · exact h

end

/-- What holds before partition `pc` of a pass. -/
def ResWork.At (c : ResidueConfig) (act : List Nat) (n len cpc nparts pass pc : Nat) (w : ResWork) : Prop :=
  w.Fits c act n len ∧ ∀ k ∈ act, DigitsRead cpc nparts pass pc (w.digits k).length

theorem ResWork.start_at (hpos : 0 < cpc) : (ResWork.start n len).At c act n len cpc nparts 0 0 := by
  refine ⟨start_fits, fun k _ => ?_⟩
  have hnil : (ResWork.start n len).digits k = [] := by
    rw [ResWork.digits, List.getD_eq_getElem?_getD, ResWork.start, List.getElem?_replicate]
    split <;> rfl
  rw [hnil, DigitsRead, if_pos rfl]
  exact ⟨dvd_zero cpc, Nat.le_refl 0, by rwa [Nat.zero_add]⟩

/-- The codewords of a group come before its first partition, in pass 0 (45_residue.md R286). -/
theorem classifyGroup_runs (hs : PassShape c cpc nparts act n len) {pass pc : Nat} (r : Reader)
    (hw : w.At c act n len cpc nparts pass pc) :
    RunsActs books res c cpc (if pass = 0 ∧ pc % cpc = 0 then act.map (ResAct.classify pc) else []) w r
      (if pass = 0 ∧ pc % cpc = 0 then classifyAll books c cpc act w r else .ok w r)
      (·.At c act n len cpc nparts pass (pc + 1)) := by
  obtain ⟨hfits, hdigits⟩ := hw
  have hnext {k : Nat} (hk : k ∈ act) := (hdigits k hk).next hs.positive
  split_ifs at hnext ⊢ with hgroup
  · refine (classifyAll_runs act r hfits hs.nodup fun k hk => ⟨hs.bound k hk, ((hdigits k hk).eq_of_start hgroup).le⟩).mono
      fun u ⟨hu, hlen⟩ => ⟨hu, fun k hk => ?_⟩
    rw [hlen, if_pos hk]
    exact hnext hk
  · exact .nil ⟨hfits, fun k hk => hnext hk⟩

theorem residuePass_runs (hs : PassShape c cpc nparts act n len) {pass : Nat} (hpass : pass < 8) (m : Nat) :
    ∀ {pc : Nat} {w : ResWork} (r : Reader), pc + m = nparts → w.At c act n len cpc nparts pass pc →
    RunsActs books res c cpc ((List.range' pc m).flatMap (scheduleAt cpc act pass)) w r
      (residuePass books res c cpc act pass m pc w r) (·.At c act n len cpc nparts pass nparts) := by
  induction m with
  | zero => exact fun r hm hw => .nil (hm ▸ hw)
  | succ m ih =>
    intro pc w r hm hw
    have hpc : pc < nparts := by omega
    rw [List.range'_succ, List.flatMap_cons, scheduleAt, List.append_assoc]
    refine (classifyGroup_runs hs r hw).bind fun u r ⟨hu, hdigits⟩ =>
      (decodePartitions_runs hs hpass hpc act r hu (List.Subset.refl act) fun k hk => (hdigits k hk).lt hpc).bind
        fun u' r ⟨hu', hclassif⟩ => ih r (by omega) ⟨hu', ?_⟩
    simpa only [ResWork.digits, hclassif] using hdigits

theorem residuePassesFrom_runs (hs : PassShape c cpc nparts act n len) (m : Nat) : ∀ {pass : Nat} {w : ResWork} (r : Reader),
    pass + m = 8 → w.At c act n len cpc nparts pass 0 →
    RunsActs books res c cpc
      ((List.range' pass m).flatMap fun pass => (List.range' 0 nparts).flatMap (scheduleAt cpc act pass)) w r
      (residuePassesFrom books res c cpc act nparts (List.range' pass m) w r) (·.Fits c act n len) := by
  induction m with
  | zero => exact fun r _ hw => .nil hw.1
  | succ m ih =>
    intro pass w r hm hw
    exact (residuePass_runs hs (by omega) nparts r (Nat.zero_add nparts) hw).bind fun u r ⟨hu, hdigits⟩ =>
      ih r (by omega) ⟨hu, fun k hk => (hdigits k hk).nextPass⟩

/-- `residue_passes` runs the acts of the schedule (45_residue.md R286). -/
theorem residuePasses_runs {cb : Codebook} (hcb : books[c.classbook]? = some cb) (hd : cb.dims ≠ 0)
    (hs : PassShape c cb.dims nparts act n len) (r : Reader) :
    RunsActs books res c cb.dims (residueSchedule cb.dims nparts act) (.start n len) r
      (residuePasses books res c act nparts (ResWork.start n len).out r) (·.Fits c act n len) := by
  have hpasses : residuePasses books res c act nparts (ResWork.start n len).out r =
      residuePassesFrom books res c cb.dims act nparts (List.range' 0 8) (.start n len) r := by
    rw [residuePasses, hcb]
    dsimp only
    rw [if_neg hd, ResWork.start, List.length_replicate]
    rfl
  rw [hpasses, residueSchedule_eq]
  exact residuePassesFrom_runs hs 8 r rfl (ResWork.start_at hs.positive)

end

end Sys2Proof.Machine
end

section
/-! The residue payloads (45_residue.md R284, R289, R290, 46_audio_packet.md R304). -/

namespace Sys2Proof.Machine

open Sys2Proof

/-! ### The vectors of a submap are stored as the rows of its channels (46_audio_packet.md R304) -/

theorem storeRows_other {ch : Nat} (chs : List Nat) : ∀ (rows vs : List (List F32)), ch ∉ chs →
    (storeRows rows chs vs)[ch]? = rows[ch]? := by
  induction chs with
  | nil => exact fun _ _ _ => by simp [storeRows]
  | cons c chs ih =>
    intro rows vs hch
    obtain ⟨hne, hch⟩ := not_or.1 (List.mem_cons.not.1 hch)
    cases vs with
    | nil => rfl
    | cons v vs => rw [storeRows, ih _ _ hch, List.getElem?_set_ne (Ne.symm hne)]

theorem storeRows_at {ch : Nat} {v : List F32} (chs : List Nat) : ∀ {k : Nat} (rows vs : List (List F32)), chs.Nodup →
    ch < rows.length → chs[k]? = some ch → vs[k]? = some v → (storeRows rows chs vs)[ch]? = some v := by
  induction chs with
  | nil => exact fun _ _ _ _ hk => by cases hk
  | cons c chs ih =>
    intro k rows vs hnodup hlt hk hv
    obtain ⟨hnotin, hnodup⟩ := List.nodup_cons.1 hnodup
    cases vs with
    | nil => cases hv
    | cons u vs =>
      cases k with
      | zero =>
        obtain rfl : c = ch := Option.some.inj hk
        obtain rfl : u = v := Option.some.inj hv
        rw [storeRows, storeRows_other chs _ _ hnotin, List.getElem?_set_self hlt]
      | succ k => exact ih _ vs hnodup (List.length_set.symm ▸ hlt) hk hv

theorem submapChannels_nodup (m : MappingConfig) (channels sm : Nat) : (m.submapChannels channels sm).Nodup :=
  List.nodup_range.filter _

theorem lt_of_mem_submapChannels {m : MappingConfig} {channels sm ch : Nat} (h : ch ∈ m.submapChannels channels sm) :
    ch < channels := List.mem_range.1 (List.mem_filter.1 h).1

/-! ### De-interleaving (45_residue.md R289) -/

theorem deinterleave_length (v : List F32) (h c k : Nat) : (deinterleave v h c k).length = h := by
  rw [deinterleave, List.length_map, List.length_range]

/-- Value `j` of a channel position is in the interleaved vector, and so no default is taken. -/
theorem deinterleave_getElem? {v : List F32} {h c k j : Nat} (hj : j < h) (hk : k < c) (hv : v.length = h * c) :
    (deinterleave v h c k)[j]? = v[j * c + k]? := by
  have hlt : j * c + k < v.length := by
    have hrow : (j + 1) * c ≤ h * c := Nat.mul_le_mul_right c hj
    rw [Nat.succ_mul] at hrow
    omega
  rw [deinterleave, List.getElem?_map, List.getElem?_range hj, Option.map_some, List.getD_eq_getElem _ _ hlt,
    List.getElem?_eq_getElem hlt]

/-! ### The passes of a submap -/

/-- A partition that is counted lies inside the working length (45_residue.md R284). -/
theorem residueParts_room {c : ResidueConfig} {len pc : Nat} (h : pc < residueParts c len) :
    c.begin + pc * c.psize + c.psize ≤ len := by
  have hfits : (pc + 1) * c.psize ≤ min c.stop len - c.begin :=
    (Nat.mul_le_mul_right _ h).trans (Nat.div_mul_le_self _ _)
  have hpos : 0 < c.psize := Nat.pos_of_ne_zero fun h0 => by simp [residueParts, h0] at h
  rw [Nat.succ_mul] at hfits
  omega

section
variable (s : State) (res : Nat) (rc : ResidueConfig) (chs : List Nat)

/-- Which channels of a submap are silent, by position (45_residue.md R284). -/
def State.silentFlags : List Bool := chs.map fun ch => s.noResidue.getD ch false

/-- The positions whose vectors the passes fill: the one interleaved vector of type 2, else those with residue
(45_residue.md R284, R289). -/
def State.passPositions : List Nat :=
  if rc.type = .t2 then [0] else (List.range chs.length).filter fun k => !s.noResidue.getD (chs.getD k 0) false

/-- How many vectors the passes fill (45_residue.md R284, R289). -/
def passVectors : Nat := if rc.type = .t2 then 1 else chs.length

/-- The length of a vector under accumulation (45_residue.md R284). -/
def State.passLength : Nat := residueActual rc.type (s.frame.n / 2) chs.length

/-- The vectors of the channels from those of the passes: de-interleaved for type 2 (45_residue.md R289, R290). -/
def State.channelVectors (w : ResWork) : ResWork :=
  if rc.type = .t2 then
    { w with
      out := (List.range chs.length).map fun k =>
        if (s.silentFlags chs).getD k false then List.replicate (s.frame.n / 2) F32.zero
        else deinterleave (w.out.headD []) (s.frame.n / 2) chs.length k }
  else w

variable {s res rc chs}

theorem State.silentFlags_length : (s.silentFlags chs).length = chs.length := List.length_map _

theorem State.silentFlags_getD {k ch : Nat} (h : chs[k]? = some ch) :
    (s.silentFlags chs).getD k false = s.noResidue.getD ch false := by
  rw [List.getD_eq_getElem?_getD, silentFlags, List.getElem?_map, h]
  rfl

theorem State.passPositions_eq (h : rc.type ≠ .t2) : s.passPositions rc chs = activePositions (s.silentFlags chs) := by
  rw [passPositions, if_neg h, activePositions, silentFlags_length]
  refine List.filter_congr fun k hk => ?_
  have hch : chs[k]? = some (chs.getD k 0) := by
    have hlt := List.mem_range.1 hk
    rw [List.getD_eq_getElem _ _ hlt, List.getElem?_eq_getElem hlt]
  rw [silentFlags_getD hch]
  cases s.noResidue.getD (chs.getD k 0) false <;> rfl

theorem activePositions_eq_nil {dnd : List Bool} : activePositions dnd = [] ↔ ∀ b ∈ dnd, b = true := by
  rw [activePositions, List.filter_eq_nil_iff]
  refine ⟨fun h b hb => ?_, fun h k hk => ?_⟩
  · obtain ⟨k, hk, rfl⟩ := List.getElem_of_mem hb
    simpa [hk] using h k (List.mem_range.2 hk)
  · have hk := List.mem_range.1 hk
    simp [hk, h _ (List.getElem_mem hk)]

theorem State.activePositions_eq_nil : activePositions (s.silentFlags chs) = [] ↔ ∀ ch ∈ chs, s.noResidue.getD ch false = true := by
  simp [Machine.activePositions_eq_nil, silentFlags]

theorem State.passLength_of_ne (h : rc.type ≠ .t2) : s.passLength rc chs = s.frame.n / 2 := by
  rw [passLength]
  cases ht : rc.type with
  | t0 | t1 => rfl
  | t2 => exact absurd ht h

theorem State.passLength_of_t2 (h : rc.type = .t2) : s.passLength rc chs = s.frame.n / 2 * chs.length := by
  rw [passLength, h]
  rfl

theorem State.passShape {cpc : Nat} (hpos : 0 < cpc) :
    PassShape rc cpc (residueParts rc (s.passLength rc chs)) (s.passPositions rc chs) (passVectors rc chs)
      (s.passLength rc chs) where
  positive := hpos
  nodup := by
    rw [passPositions]
    split
    · exact List.nodup_singleton 0
    · exact List.nodup_range.filter _
  bound k hk := by
    rw [passPositions] at hk
    rw [passVectors]
    split_ifs at hk ⊢
    · exact Nat.lt_one_iff.2 (List.mem_singleton.1 hk)
    · exact List.mem_range.1 (List.mem_filter.1 hk).1
  room pc hpc := residueParts_room hpc

/-- The run of a submap in its three ends: no classbook, one of dimension 0, or the acts of the schedule (45_residue.md R286). -/
theorem State.residueRun_eq : s.residueRun res rc chs =
    match s.codebooks[rc.classbook]? with
    | none => .stuck .configAbsent
    | some cb =>
      if cb.dims = 0 then .bad .cbZeroDim rc.classbook s.reader
      else
        runActs s.codebooks res rc cb.dims
          (residueSchedule cb.dims (residueParts rc (s.passLength rc chs)) (s.passPositions rc chs))
          (.start (passVectors rc chs) (s.passLength rc chs)) s.reader := by
  rw [residueRun, passPositions, passVectors, passLength]
  cases rc.type <;> rfl

/-- The passes of a submap run the acts of the rule (45_residue.md R286). -/
theorem State.residueRun_eq_passes : s.residueRun res rc chs =
    residuePasses s.codebooks res rc (s.passPositions rc chs) (residueParts rc (s.passLength rc chs))
      (ResWork.start (passVectors rc chs) (s.passLength rc chs)).out s.reader := by
  rw [residueRun_eq]
  cases hcb : s.codebooks[rc.classbook]? with
  | none => rw [residuePasses, hcb]
  | some cb =>
    dsimp only
    split_ifs with hd
    · rw [residuePasses, hcb]
      exact (if_pos hd).symm
    · exact (residuePasses_runs hcb hd (passShape (Nat.pos_of_ne_zero hd)) s.reader).eq.symm

/-- The run answers vectors that fit, and always answers when the books are fit (45_residue.md R284 to R288). -/
theorem State.residueRun_meets : (s.residueRun res rc chs).Meets (residueReady s.codebooks rc)
    (·.Fits rc (s.passPositions rc chs) (passVectors rc chs) (s.passLength rc chs)) := by
  cases hcb : s.codebooks[rc.classbook]? with
  | none =>
    rw [residueRun_eq, hcb]
    rintro ⟨⟨cb, hcb', -⟩, -⟩
    cases hcb.symm.trans hcb'
  | some cb =>
    by_cases hd : cb.dims = 0
    · rw [residueRun_eq, hcb]
      dsimp only
      rw [if_pos hd]
      rintro ⟨⟨cb', hcb', -, hd'⟩, -⟩
      cases hcb.symm.trans hcb'
      exact hd' hd
    · rw [residueRun_eq_passes]
      exact (residuePasses_runs hcb hd (passShape (Nat.pos_of_ne_zero hd)) s.reader).meets

theorem State.residueRun_from : (s.residueRun res rc chs).From s.reader := by
  rw [residueRun_eq_passes]
  exact residuePasses_from _ _ _ _ _ _ _

/-! ### `residue_decode` (45_residue.md R284) -/

/-- A submap without partitions, or of silent channels, reads nothing (45_residue.md R284). -/
theorem State.residueDecode_silent
    (h : residueParts rc (s.passLength rc chs) = 0 ∨ ∀ ch ∈ chs, s.noResidue.getD ch false = true) :
    residueDecode rc.type s.codebooks res rc (s.frame.n / 2) (s.silentFlags chs) s.reader =
      .ok { out := List.replicate chs.length (List.replicate (s.frame.n / 2) F32.zero), classif := [] } s.reader := by
  rw [← activePositions_eq_nil, passLength, ← silentFlags_length (s := s) (chs := chs)] at h
  rw [← silentFlags_length (s := s) (chs := chs), ← List.map_const']
  unfold residueDecode
  exact if_pos h

/-- Another submap is decoded by the passes, and de-interleaved for type 2 (45_residue.md R284, R289). -/
theorem State.residueDecode_active (hparts : residueParts rc (s.passLength rc chs) ≠ 0)
    (hactive : ∃ ch ∈ chs, s.noResidue.getD ch false = false) :
    residueDecode rc.type s.codebooks res rc (s.frame.n / 2) (s.silentFlags chs) s.reader =
      (s.residueRun res rc chs).bind fun w r => .ok (s.channelVectors rc chs w) r := by
  have hrun : ¬ (residueParts rc (residueActual rc.type (s.frame.n / 2) (s.silentFlags chs).length) = 0
      ∨ activePositions (s.silentFlags chs) = []) := by
    rw [activePositions_eq_nil, silentFlags_length]
    rintro (h | h)
    · exact hparts h
    · obtain ⟨ch, hch, hflag⟩ := hactive
      cases (h ch hch).symm.trans hflag
  have hsame {ty : ResType} (h : rc.type = ty) : { rc with type := ty } = rc := h ▸ rfl
  unfold residueDecode
  dsimp only
  rw [if_neg hrun, residueRun_eq_passes]
  cases ht : rc.type with
  | t2 =>
    simp only [hsame ht, ht, channelVectors, passPositions, passVectors, passLength, residueActual, silentFlags_length, if_true,
      ResWork.start, List.replicate_one]
  | t0 | t1 =>
    have hne : rc.type ≠ .t2 := by simp [ht]
    simp only [hsame ht, channelVectors, passPositions_eq hne, passVectors, passLength_of_ne hne, hne, if_false, residueActual,
      List.map_const', silentFlags_length, ResWork.start, Got.bind_ok_self]

/-- The vectors of a submap's channels (45_residue.md R289, R290). -/
theorem State.channelVectors_spec {w : ResWork}
    (hw : w.Fits rc (s.passPositions rc chs) (passVectors rc chs) (s.passLength rc chs)) {k ch : Nat}
    (hk : chs[k]? = some ch) :
    ∃ v, (s.channelVectors rc chs w).out[k]? = some v ∧ v.length = s.frame.n / 2
      ∧ (s.noResidue.getD ch false = true → v = List.replicate (s.frame.n / 2) F32.zero)
      ∧ (s.noResidue.getD ch false = false → rc.type ≠ .t2 → w.out[k]? = some v)
      ∧ (s.noResidue.getD ch false = false → rc.type = .t2 →
          ∀ j < s.frame.n / 2, v[j]? = (w.out.headD [])[j * chs.length + k]?) := by
  have hlt : k < chs.length := (List.getElem?_eq_some_iff.1 hk).1
  by_cases ht : rc.type = .t2
  · obtain ⟨V, hout⟩ : ∃ V, w.out = [V] := List.length_eq_one_iff.1 (by rw [hw.outLength, passVectors, if_pos ht])
    have hlen : V.length = s.frame.n / 2 * chs.length := by
      rw [← passLength_of_t2 ht]
      exact hw.vectors V (by simp [hout])
    have hat : (s.channelVectors rc chs w).out[k]? = some (if s.noResidue.getD ch false
        then List.replicate (s.frame.n / 2) F32.zero else deinterleave V (s.frame.n / 2) chs.length k) := by
      rw [channelVectors, if_pos ht, hout, List.getElem?_map, List.getElem?_range hlt, Option.map_some, silentFlags_getD hk]
      rfl
    cases hflag : s.noResidue.getD ch false with
    | true =>
      rw [hflag] at hat
      exact ⟨_, hat, List.length_replicate, fun _ => rfl, by simp, by simp⟩
    | false =>
      rw [hflag] at hat
      refine ⟨_, hat, deinterleave_length .., by simp, fun _ hne => absurd ht hne, fun _ _ j hj => ?_⟩
      rw [hout]
      exact deinterleave_getElem? hj hlt hlen
  · have hkv : k < w.out.length := by rwa [hw.outLength, passVectors, if_neg ht]
    have hv := List.getElem?_eq_getElem hkv
    rw [channelVectors, if_neg ht]
    refine ⟨_, hv, passLength_of_ne ht ▸ hw.vectors _ (List.getElem_mem hkv), fun hsilent => ?_, fun _ _ => hv,
      fun _ h => absurd h ht⟩
    have hidle : k ∉ s.passPositions rc chs := fun hmem => by
      have hch : chs.getD k 0 = ch := by rw [List.getD_eq_getElem?_getD, hk, Option.getD_some]
      rw [passPositions, if_neg ht, List.mem_filter, hch, hsilent] at hmem
      cases hmem.2
    have hzero := hw.silent k (hw.outLength ▸ hkv) hidle
    rw [passLength_of_ne ht] at hzero
    exact Option.some.inj (hv.symm.trans hzero)

end

/-! ### The payload -/

section
variable {s : State} {sm res : Nat} {m : MappingConfig} {rc : ResidueConfig} {chs : List Nat} {i : Instr}

/-- The answer of `residue_decode` is stored as the residues of the submap's channels (46_audio_packet.md R304). -/
theorem exec_residuePayload
    (hi : i = .res0Payload ∧ rc.type = .t0 ∨ i = .res1Payload ∧ rc.type = .t1 ∨ i = .res2Payload ∧ rc.type = .t2)
    (hseq : s.seq = .residuePayload sm) (hm : s.frameMapping = some m) (hres : s.submapResidue m sm = some (res, rc)) :
    exec i s =
      (residueDecode rc.type s.codebooks res rc (s.frame.n / 2) (s.silentFlags (m.submapChannels s.cfg.channels sm))
        s.reader).finish s fun w u =>
          .next { u with
            frame := { u.frame with
              residue := storeRows u.frame.residue (m.submapChannels s.cfg.channels sm) w.out, classif := w.classif }
            seq := m.residueSeq s.cfg.channels (sm + 1) } := by
  have hexec : exec i s = residuePayload rc.type s := by
    rcases hi with ⟨rfl, ht⟩ | ⟨rfl, ht⟩ | ⟨rfl, ht⟩ <;> rw [ht] <;> rfl
  have hsm : s.curSubmap = sm := by rw [State.curSubmap, hseq]
  rw [hexec, residuePayload, hm, hsm]
  dsimp only
  rw [hres]
  rfl

end

/-- Settles O40: the passes are the acts of the schedule, and their vectors are stored channel by channel. -/
theorem residuePayloads : Obligations.ResiduePayloads := by
  unfold Obligations.ResiduePayloads
  intro i s sm res m rc chs hi hseq hm hres hchs hrows
  have hexec := exec_residuePayload hi hseq hm hres
  have hnodup : chs.Nodup := hchs ▸ submapChannels_nodup m s.cfg.channels sm
  have hrow {ch : Nat} (hch : ch ∈ chs) : ch < s.frame.residue.length :=
    (lt_of_mem_submapChannels (hchs ▸ hch)).trans_le hrows
  rw [← hchs] at hexec
  refine ⟨fun hnothing => ?nothing, fun hparts hactive => ?passes⟩
  case nothing =>
    rw [State.residueDecode_silent hnothing] at hexec
    refine ⟨_, hexec, rfl, fun ch hch => ?_, fun ch hch => storeRows_other chs _ _ hch,
      readBy_of_skips _ (narrow_of_decide rfl) rfl rfl rfl⟩
    obtain ⟨k, hk, rfl⟩ := List.getElem_of_mem hch
    exact storeRows_at chs _ _ hnodup (hrow hch) (List.getElem?_eq_getElem hk) (List.getElem?_replicate_of_lt hk)
  case passes =>
    rw [State.residueDecode_active hparts hactive] at hexec
    have hmeets := State.residueRun_meets (s := s) (res := res) (rc := rc) (chs := chs)
    have hfrom := State.residueRun_from (s := s) (res := res) (rc := rc) (chs := chs)
    refine ⟨fun hready => ?ready, fun w r hrun => ?run, fun c k r hrun => ?aborts⟩
    case ready =>
      obtain ⟨w, r, hrun⟩ := hmeets.exists_ok hready
      rw [hrun] at hexec
      exact ⟨_, w, r, hexec, hrun⟩
    case run =>
      rw [hrun] at hexec hmeets hfrom
      refine ⟨_, hexec, rfl, fun k ch hk => ?_, fun ch hch => storeRows_other chs _ _ hch,
        fun hinv => (withReader_of_reaches hinv hfrom).1⟩
      obtain ⟨v, hv, hspec⟩ := State.channelVectors_spec hmeets hk
      exact ⟨v, storeRows_at chs _ _ hnodup (hrow (List.mem_of_getElem? hk)) hk hv, hspec⟩
    case aborts =>
      rw [hrun] at hexec hfrom
      exact ⟨_, hexec, ⟨rfl, rfl, rfl⟩, rfl, fun hinv => (withReader_of_reaches hinv hfrom).1⟩

end Sys2Proof.Machine
end

section
/-! The propagation over the coupling steps (46_audio_packet.md R303). -/

namespace Sys2Proof.Machine

open Sys2Proof

section
variable {flags : List Bool} {m a ch : Nat}

/-- A flag that is cleared reads as clear, be it in the list or past its end. -/
theorem getD_set_false (k : Nat) :
    (flags.set k false).getD ch false = if ch = k then false else flags.getD ch false := by
  simp only [List.getD_eq_getElem?_getD, List.getElem?_set, eq_comm (a := k)]
  split
  · split <;> rfl
  · rfl

/-! ### One step -/

theorem propagateStep_of_residue (h : flags.getD m false = false ∨ flags.getD a false = false) :
    propagateStep flags m a = (flags.set m false).set a false := if_pos h

theorem propagateStep_of_silent (hm : flags.getD m false = true) (ha : flags.getD a false = true) :
    propagateStep flags m a = flags := if_neg (by rw [hm, ha]; decide)

theorem propagateStep_length : (propagateStep flags m a).length = flags.length := by
  unfold propagateStep
  split
  · rw [List.length_set, List.length_set]
  · rfl

/-- A channel that has no residue after a step had none before it. -/
theorem propagateStep_keeps_residue (h : (propagateStep flags m a).getD ch false = true) : flags.getD ch false = true := by
  unfold propagateStep at h
  split at h
  · rw [getD_set_false, getD_set_false] at h
    split at h
    · cases h
    split at h
    · cases h
    · exact h
  · exact h

/-! ### All steps -/

/-- The last step acts on the flags as the earlier ones left them. -/
theorem propagate_concat (steps : List (Nat × Nat)) (flags : List Bool) (m a : Nat) :
    propagate (steps ++ [(m, a)]) flags = propagateStep (propagate steps flags) m a :=
  List.foldl_concat ..

theorem propagate_length (steps : List (Nat × Nat)) : ∀ flags, (propagate steps flags).length = flags.length := by
  induction steps with
  | nil => exact fun _ => rfl
  | cons st steps ih => exact fun flags => (ih _).trans propagateStep_length

theorem propagate_keeps_residue (steps : List (Nat × Nat)) :
    ∀ flags : List Bool, (propagate steps flags).getD ch false = true → flags.getD ch false = true := by
  induction steps with
  | nil => exact fun _ h => h
  | cons st steps ih => exact fun flags h => propagateStep_keeps_residue (ih _ h)

end

/-! ### The step that ends the floors -/

section
variable {s t : State} {m : MappingConfig}

/-- The curve of a channel writes none of the flags that the presence bits gave (44_floor1.md R266). -/
theorem channelVector_flags {ch : Nat} (h : channelVector ch s = .inl t) :
    t.noResidue = s.noResidue ∧ t.floorUnused = s.floorUnused := by
  rcases channelVector_inl.1 h with ⟨-, rfl⟩ | ⟨-, _, _, _, _, _, -, -, rfl⟩
  · exact ⟨rfl, rfl⟩
  · exact ⟨rfl, rfl⟩

theorem floorVectors_flags (chs : List Nat) : ∀ {s : State}, floorVectors chs s = .inl t →
    t.noResidue = s.noResidue ∧ t.floorUnused = s.floorUnused := by
  induction chs with
  | nil => rintro _ ⟨⟩; exact ⟨rfl, rfl⟩
  | cons ch chs ih =>
    intro s h
    simp only [floorVectors] at h
    split at h
    · cases h
    · obtain ⟨hres, hunused⟩ := channelVector_flags ‹_›
      obtain ⟨hres', hunused'⟩ := ih h
      exact ⟨hres'.trans hres, hunused'.trans hunused⟩

/-- When the curves end without an abort, the flags they end with are propagated. -/
theorem floorCurves_flags (hm : s.frameMapping = some m) (h : floorCurves s = .next t) (hok : t.phase ≠ .error) :
    t.noResidue = propagate m.steps s.noResidue ∧ t.floorUnused = s.floorUnused := by
  cases hv : floorVectors (List.range s.cfg.channels) s with
  | inr o =>
    rw [floorCurves_of_inr hm hv] at h
    subst h
    obtain ⟨u, i, -, rfl⟩ := floorVectors_next _ hv
    exact absurd rfl hok
  | inl u =>
    obtain ⟨hres, hunused⟩ := floorVectors_flags _ hv
    rw [floorCurves_of_inl hm hv] at h
    cases h
    exact ⟨congrArg (propagate m.steps) hres, hunused⟩

end

/-- Settles O46: a step clears both flags of its pair or none, on what the earlier steps left; the curves write no flag. -/
theorem propagation : Obligations.Propagation := by
  unfold Obligations.Propagation
  refine ⟨fun steps flags m a _ _ => ⟨propagate_length steps flags, fun ch => propagate_keeps_residue steps flags,
    fun hres => ?residue, fun hm ha => ?silent⟩, fun _ => rfl, fun s t m hq hb hseq hm hstep hok => ?curves⟩
  case residue =>
    rw [propagate_concat, propagateStep_of_residue hres]
    refine ⟨?_, ?_, fun ch hm ha => ?_⟩
    · rw [getD_set_false, getD_set_false, if_pos rfl, ite_self]
    · rw [getD_set_false, if_pos rfl]
    · rw [getD_set_false, getD_set_false, if_neg ha, if_neg hm]
  case silent =>
    rw [propagate_concat, propagateStep_of_silent hm ha]
  case curves =>
    rw [step_curves hq hb hseq] at hstep
    exact floorCurves_flags hm hstep hok

end Sys2Proof.Machine
end

section
/-! Decoupling and spectrum (46_audio_packet.md R305 to R307). -/

namespace Sys2Proof.Machine

open Sys2Proof

/-! ### One coupling step -/

section
variable {rows : List (List F32)} {m a ch : Nat}

theorem decoupleStep_other (hm : ch ≠ m) (ha : ch ≠ a) : (decoupleStep rows (m, a))[ch]? = rows[ch]? :=
  (List.getElem?_set_ne ha.symm).trans (List.getElem?_set_ne hm.symm)

/-- The new magnitudes of a step, from the old vectors of its two channels (46_audio_packet.md R306). -/
theorem decoupleStep_magnitude (hm : m < rows.length) (hne : m ≠ a) :
    (decoupleStep rows (m, a)).getD m []
      = List.zipWith (fun x y => (decouple x y).1) (rows.getD m []) (rows.getD a []) := by
  rw [decoupleStep, List.getD_eq_getElem?_getD, List.getElem?_set_ne hne.symm, List.getElem?_set_self hm]
  rfl

/-- The new angles of a step, likewise. -/
theorem decoupleStep_angle (ha : a < rows.length) :
    (decoupleStep rows (m, a)).getD a []
      = List.zipWith (fun x y => (decouple x y).2) (rows.getD m []) (rows.getD a []) := by
  rw [decoupleStep, List.getD_eq_getElem?_getD, List.getElem?_set_self (by rwa [List.length_set])]
  rfl

/-- The steps run in reverse order: the last one of the list comes first (46_audio_packet.md R305). -/
theorem decoupleAll_concat (steps : List (Nat × Nat)) (st : Nat × Nat) (rows : List (List F32)) :
    decoupleAll (steps ++ [st]) rows = decoupleAll steps (decoupleStep rows st) := by
  rw [decoupleAll, List.reverse_concat, List.foldl_cons, ← decoupleAll]

end

/-! ### The spectrum of a channel -/

theorem spectra_getD {h channels ch : Nat} {unused : List Bool} {floors residues : List (List F32)} (hch : ch < channels) :
    (spectra h channels unused floors residues).getD ch []
      = spectrumOf h (unused.getD ch false) (floors.getD ch []) (residues.getD ch []) := by
  rw [spectra, List.getD_eq_getElem?_getD, List.getElem?_map, List.getElem?_range hch]
  rfl

theorem spectrumOf_unused {h i : Nat} (hi : i < h) (floor residue : List F32) :
    (spectrumOf h true floor residue)[i]? = some F32.zero := List.getElem?_replicate_of_lt hi

theorem spectrumOf_used (h : Nat) (floor residue : List F32) :
    spectrumOf h false floor residue = List.zipWith F32.mul floor residue := rfl

/-! ### The step -/

theorem step_couple {s : State} {m : MappingConfig} (hq : s.hostQ = []) (hb : s.phase.busy = true) (hseq : s.seq = .couple)
    (hm : s.frameMapping = some m) :
    step s = .next { s with
      frame := { s.frame with
        residue := decoupleAll m.steps s.frame.residue
        spectrum := spectra (s.frame.n / 2) s.cfg.channels s.floorUnused s.frame.floor
          (decoupleAll m.steps s.frame.residue) }
      seq := .synth } := by
  rw [step_busy hq hb, fetchCore, hseq]
  dsimp only
  rw [coupleOp, hm]

/-- Settles O47: the step's state, the last step of the list first, the two new vectors of a step, the four sign cases. -/
theorem decouplingAndSpectrum : Obligations.DecouplingAndSpectrum := by
  unfold Obligations.DecouplingAndSpectrum
  refine ⟨fun s m hq hb hseq hm => ?step, fun steps st rows => ⟨decoupleAll_concat steps st rows, rfl⟩,
    fun m a rows hm ha hne => ⟨fun ch => decoupleStep_other, fun i x y hx hy => ?pair⟩, fun x y => ?signs⟩
  case step =>
    refine ⟨_, step_couple hq hb hseq hm, rfl, ?_, fun ch hch i hi => ?_⟩
    · exact (List.length_map _).trans List.length_range
    · rw [spectra_getD hch]
      refine ⟨fun hunused => ?_, fun hused x y hx hy => ?_⟩
      · rw [hunused]
        exact spectrumOf_unused hi _ _
      · rw [hused, spectrumOf_used]
        exact List.getElem?_zipWith_eq_some.2 ⟨x, y, hx, hy, rfl⟩
  case pair =>
    rw [decoupleStep_magnitude hm hne, decoupleStep_angle ha]
    exact ⟨List.getElem?_zipWith_eq_some.2 ⟨x, y, hx, hy, rfl⟩, List.getElem?_zipWith_eq_some.2 ⟨x, y, hx, hy, rfl⟩⟩
  case signs =>
    refine ⟨fun hx hy => ?_, fun hx hy => ?_, fun hx hy => ?_, fun hx hy => ?_⟩ <;> simp [decouple, hx, hy]

end Sys2Proof.Machine
end

section
/-! What an abort leaves alone, and that none follows the beginning of a packet's synthesis (60_exceptions.md R351,
46_audio_packet.md R308). -/

namespace Sys2Proof.Machine

open Sys2Proof

section
variable {s t u : State}

theorem State.Fails.sinkRoom (h : s.Fails u) : u.sinkRoom = s.sinkRoom := (congrArg State.sinkRoom h.kept :)
theorem State.Fails.carry (h : s.Fails u) : u.carry = s.carry := (congrArg State.carry h.kept :)
theorem State.Fails.prevN (h : s.Fails u) : u.prevN = s.prevN := (congrArg State.prevN h.kept :)
theorem State.Fails.pageValid (h : s.Fails u) : u.pageValid = s.pageValid := (congrArg State.pageValid h.kept :)
theorem State.Fails.cfg (h : s.Fails u) : u.cfg = s.cfg := (congrArg State.cfg h.kept :)

/-- A step enters `ERROR` by an abort only. -/
theorem Stepped.raised (h : Stepped s t) (hs : s.phase ≠ .error) (ht : t.phase = .error) :
    s.phase.busy = true ∧ ∃ u c i, s.Fails u ∧ t = u.raise c i := by
  cases h with
  | aborts u c i busy fails => exact ⟨busy, u, c, i, fails, rfl⟩
  | resets | starts | ends => cases ht
  | idles | begins | page | segment | synthesizes | stalls => exact absurd ht hs
  | decodes _ p place e hw => exact absurd (e.phase.symm.trans ht) hs
  | header u v _ hc e hv move =>
    obtain ⟨-, rfl⟩ := completePacket_next.1 hc
    have hv : v.phase = .error := ht
    simp [hv] at move
  | finishes k xs room _ audio hq hc =>
    obtain ⟨-, rfl⟩ := completePacket_next.1 hc
    exact absurd ht hs

/-! ### Synthesis and emission -/

theorem emit_phase {k : Nat} (h : emit k s = .next t) : t.phase = s.phase := by
  obtain ⟨m, -, ⟨-, he⟩ | ⟨-, he⟩⟩ := emit_cases k s
  · rw [he] at h
    obtain ⟨-, rfl⟩ := completePacket_next.1 h
    rfl
  · rw [he] at h
    cases h
    rfl

/-- The synthesis and the emission leave the phase alone (47_synthesis.md R331). -/
theorem fetchCore_synthesis_phase (hq : s.seq = .synth ∨ ∃ k, s.seq = .emit k)
    (h : (fetchCore s).outcome s = .next t) : t.phase = s.phase := by
  rcases hq with hq | ⟨k, hq⟩ <;> rw [fetchCore, hq] at h
  · cases h
    rfl
  · exact emit_phase h

/-- A host write does not raise an error (10_state.md R41). -/
theorem hostWrite_no_error {w : HostWrite} (hs : s.phase ≠ .error) (h : hostWrite w s = .next t) : t.phase ≠ .error := by
  obtain ⟨-, ⟨-, rfl⟩ | ⟨-, rfl⟩⟩ := hostWrite_next h
  · rcases writeCtrl_cases w.value s with ⟨-, he⟩ | ⟨-, -, -, he⟩ | ⟨-, -, he⟩ <;> rw [he]
    · exact Phase.noConfusion
    · exact Phase.noConfusion
    · exact hs
  · exact hs

theorem takeHostWrite_no_error {w : HostWrite} {rest : List HostWrite} (hs : s.phase ≠ .error)
    (h : takeHostWrite w rest s = .next t) : t.phase ≠ .error := by
  unfold takeHostWrite at h
  dsimp only at h
  split at h
  · exact hostWrite_no_error (by exact hs) h
  · exact hostWrite_no_error (by exact hs) h

/-- A busy core takes its next act or a host write. -/
theorem step_cases_busy (busy : s.phase.busy = true) (h : step s = .next t) :
    (fetchCore s).outcome s = .next t ∨ ∃ w rest, takeHostWrite w rest s = .next t := by
  have hcore : fetchCoreOrRest s = fetchCore s := if_pos busy
  rw [step_eq, fetch, hcore] at h
  split at h
  · exact .inl h
  split at h
  · exact .inr ⟨_, _, h⟩
  · exact .inl h

/-- No error comes once a packet's synthesis has begun (46_audio_packet.md R308). -/
theorem step_synthesis_no_error (busy : s.phase.busy = true) (hs : s.phase ≠ .error)
    (hq : s.seq = .synth ∨ ∃ k, s.seq = .emit k) (h : step s = .next t) : t.phase ≠ .error := by
  rcases step_cases_busy busy h with h | ⟨w, rest, h⟩
  · rw [fetchCore_synthesis_phase hq h]
    exact hs
  · exact takeHostWrite_no_error hs h

end

/-- Settles O58, by the abort's place among the cases of `Stepped` and what a failing operation spares. -/
theorem abortKeeps : Obligations.AbortKeeps := by
  unfold Obligations.AbortKeeps
  intro s t h hstep hs ht
  obtain ⟨busy, u, c, i, fails, rfl⟩ := (step_stepped h.place hstep).raised hs ht
  have hnone (hq : s.seq = .synth ∨ ∃ k, s.seq = .emit k) : False := step_synthesis_no_error busy hs hq hstep ht
  exact ⟨⟨c, raise_isOf u c i⟩, congrArg (BitVec.ofNat 32) fails.packetNo,
    congrArg (fun n : Counters => BitVec.ofNat 32 n.pagesAccepted) fails.cnt, fails.out, fails.sinkRoom, fails.carry,
    fails.prevN, fails.cnt, fails.packetNo, fails.pageValid, fails.cfg, fails.pkt,
    fun hq => hnone (.inl hq), fun k hq => hnone (.inr ⟨k, hq⟩)⟩

end Sys2Proof.Machine
end

section
/-! The configuration is read-only from `AUDIO` on (10_state.md R33, 70_reset_and_hazards.md R388). -/

namespace Sys2Proof.Machine

open Sys2Proof

/-- What a stream configures: the values of its three header packets (10_state.md R27 to R32). -/
def State.configuration (s : State) : IdConfig × Nat × Nat × Nat × Nat × Nat × List Codebook × List FloorConfig
    × List ResidueConfig × List MappingConfig × List ModeConfig :=
  (s.cfg, s.nCodebooks, s.nFloors, s.nResidues, s.nMappings, s.nModes, s.codebooks, s.floors, s.residues, s.mappings, s.modes)

theorem sameConfig_iff {s t : State} : SameConfig s t ↔ t.configuration = s.configuration := by
  simp only [SameConfig, State.configuration, Prod.mk.injEq]

/-- A next state, if there is one, has the configuration of `s`. -/
def KeepsConfiguration (s : State) (o : Host.Outcome State Fault Refusal) : Prop :=
  ∀ t, o = .next t → t.configuration = s.configuration

section
variable {s u : State}

/-! ### Writes and ends of an operation -/

theorem KeepsConfiguration.next (h : u.configuration = s.configuration) : KeepsConfiguration s (.next u) := by
  rintro _ ⟨⟩
  exact h

theorem KeepsConfiguration.fault (s : State) (e : Fault) : KeepsConfiguration s (.fault e) := fun _ h => by cases h

/-- The abort writes no configuration (60_exceptions.md R351). -/
theorem KeepsConfiguration.abort {c : ErrCode} {i : Nat} (h : u.configuration = s.configuration) :
    KeepsConfiguration s (abort u c i) := .next h

theorem KeepsConfiguration.completePacket (h : u.configuration = s.configuration) :
    KeepsConfiguration s (completePacket u) := by
  intro t ht
  obtain ⟨-, rfl⟩ := completePacket_next.1 ht
  exact h

theorem KeepsConfiguration.takeThen {k : Nat} {f : State → Host.Outcome State Fault Refusal}
    (hf : KeepsConfiguration s (f (s.takeSrc k))) : KeepsConfiguration s (takeThen k s f) := fun t ht =>
  hf t (takeThen_next.1 ht).2

theorem KeepsConfiguration.finish {α : Type} {f : α → State → Host.Outcome State Fault Refusal} (g : Got α)
    (h : u.configuration = s.configuration)
    (hf : ∀ a v, v.configuration = s.configuration → KeepsConfiguration s (f a v)) : KeepsConfiguration s (g.finish u f) := by
  cases g with
  | ok a r => exact hf a _ h
  | bad c i r => exact .abort h
  | stuck e => exact .fault s e

/-! ### The units and the acts of an audio packet (46_audio_packet.md R300 to R307) -/

theorem execAudioPacket_configuration (mode : Nat) : KeepsConfiguration s (execAudioPacket mode s) := by
  unfold execAudioPacket
  dsimp only
  split
  · exact .abort rfl
  split
  · exact .fault s _
  · exact .next rfl

theorem execFloor1PayloadPresent_configuration (y0 y1 : Nat) :
    KeepsConfiguration s (execFloor1PayloadPresent y0 y1 s) := by
  unfold execFloor1PayloadPresent
  split
  · exact .fault s _
  · exact .finish _ rfl fun _ _ hv => .next hv

theorem residuePayload_configuration (ty : ResType) : KeepsConfiguration s (residuePayload ty s) := by
  unfold residuePayload
  split
  · exact .fault s _
  split
  · exact .fault s _
  · exact .finish _ rfl fun _ _ hv => .next hv

/-- No unit of an audio packet writes the configuration. -/
theorem exec_audio_configuration {i : Instr} (hi : unitPhase i = some .audio) : KeepsConfiguration s (exec i s) := by
  cases i with
  | audioPacket mode => exact execAudioPacket_configuration mode
  | windowFlags prev next => exact .next rfl
  | floor1PayloadUnused => exact .next rfl
  | floor1PayloadPresent y0 y1 => exact execFloor1PayloadPresent_configuration y0 y1
  | res0Payload => exact residuePayload_configuration .t0
  | res1Payload => exact residuePayload_configuration .t1
  | res2Payload => exact residuePayload_configuration .t2
  | _ => cases hi

/-- The only illegal selector of an audio packet is its type bit (46_audio_packet.md R300). -/
theorem decode_audio_illegal {c : Ctx} {bs : List Bool} {e : ErrCode} {k head : Nat} {ws : List Nat}
    (hc : ctxPhase c = some .audio) (hd : decode c bs = .illegal e k ws head) : e = .audioType := by
  cases c with
  | audio n => simp only [decode] at hd; split at hd <;> cases hd; rfl
  | window => cases hd
  | floorPayload r => simp only [decode] at hd; split at hd <;> cases hd
  | residuePayload ty => cases ty <;> cases hd
  | _ => cases hc

theorem fetchUnit_configuration (audio : s.phase = .audio) (hp : s.seq.inPhase s.phase = true) :
    KeepsConfiguration s ((fetchUnit s).outcome s) := by
  cases hc : s.ctx with
  | none =>
    rw [fetchUnit, hc]
    exact .fault s _
  | some c =>
    have hphase : ctxPhase c = some .audio := audio ▸ ctxPhase_of_ctx hp hc
    cases hd : decode c s.reader.rest with
    | ok i rest =>
      rw [fetchUnit_ok hc hd]
      exact exec_audio_configuration ((decode_phase hd).trans hphase)
    | illegal e k ws head =>
      obtain rfl := decode_audio_illegal hphase hd
      rw [fetchUnit_illegal hc hd]
      exact .abort rfl

theorem channelVector_configuration {ch : Nat} (h : channelVector ch s = .inl u) : u.configuration = s.configuration := by
  rcases channelVector_inl.1 h with ⟨-, rfl⟩ | ⟨-, _, _, _, _, _, -, -, rfl⟩
  · rfl
  · rfl

/-- The loop over the channels goes on, or ends the step at its first channel without a vector (44_floor1.md R266). -/
theorem floorVectors_configuration (chs : List Nat) : ∀ {u : State}, u.configuration = s.configuration →
    (∀ v, floorVectors chs u = .inl v → v.configuration = s.configuration)
      ∧ ∀ o, floorVectors chs u = .inr o → KeepsConfiguration s o := by
  induction chs with
  | nil =>
    intro u h
    refine ⟨?_, fun _ ho => (nomatch ho)⟩
    rintro _ ⟨⟩
    exact h
  | cons ch chs ih =>
    intro u h
    cases hch : channelVector ch u with
    | inl v =>
      simp only [floorVectors, hch]
      exact ih ((channelVector_configuration hch).trans h)
    | inr o =>
      simp only [floorVectors, hch]
      refine ⟨fun _ hv => (nomatch hv), ?_⟩
      rintro _ ⟨⟩
      rcases (channelVector_inr hch).2 with ⟨e, rfl⟩ | ⟨_, _, _, _, -, -, rfl⟩
      · exact .fault s e
      · exact .abort h

theorem floorCurves_configuration : KeepsConfiguration s (floorCurves s) := by
  obtain ⟨hgoes, hends⟩ := floorVectors_configuration (List.range s.cfg.channels) (Eq.refl s.configuration)
  unfold floorCurves
  split
  · exact .fault s _
  split
  · exact hends _ ‹_›
  · rename_i hinl
    have hkept := hgoes _ hinl
    exact .next hkept

theorem coupleOp_configuration : KeepsConfiguration s (coupleOp s) := by
  unfold coupleOp
  split
  · exact .fault s _
  · exact .next rfl

theorem emit_configuration (k : Nat) : KeepsConfiguration s (emit k s) := by
  obtain ⟨m, -, ⟨-, he⟩ | ⟨-, he⟩⟩ := emit_cases k s
  · rw [he]
    exact .completePacket rfl
  · rw [he]
    exact .next rfl

/-! ### Packet assembly (40_ogg_demuxer.md R120 to R128) -/

theorem execOggPage_configuration (p : Page) : KeepsConfiguration s (execOggPage p s) := by
  refine .takeThen ?_
  dsimp only
  split
  · exact .next rfl
  · exact .abort rfl

theorem cleanEnd_configuration (b : Bool) : KeepsConfiguration s (cleanEnd b s) := by
  unfold cleanEnd
  split
  · exact .abort rfl
  rcases endOfStream_cases s with ⟨-, he⟩ | ⟨-, he⟩
  · rw [he]
    exact .next rfl
  · rw [he]
    exact .next rfl

theorem pageShort_configuration (b : Bool) (bytes : List Byte) : KeepsConfiguration s (pageShort b bytes s) := by
  unfold pageShort
  split
  · exact .next rfl
  · exact .takeThen (.abort rfl)
  · exact .next rfl
  split
  · exact cleanEnd_configuration b
  · exact .takeThen (.abort rfl)

theorem pageIllegal_configuration (bytes : List Byte) (c : ErrCode) : KeepsConfiguration s (pageIllegal bytes c s) :=
  .takeThen (.abort rfl)

theorem takeSegment_configuration : KeepsConfiguration s (takeSegment s) := by
  intro t ht
  obtain ⟨_, -, ⟨-, rfl⟩ | ⟨-, rfl⟩⟩ := takeSegment_next ht
  · rfl
  · rfl

theorem fetchSegment_configuration (b : Bool) : KeepsConfiguration s ((fetchSegment b s).outcome s) := by
  unfold fetchSegment
  split
  · split
    · exact execOggPage_configuration _
    · exact pageShort_configuration b _
    · exact pageIllegal_configuration _ _
  · exact takeSegment_configuration

/-! ### The step -/

/-- In `AUDIO` the sequencer stands in no place of the setup header, and nothing else writes the configuration. -/
theorem fetchCore_configuration (audio : s.phase = .audio) (hp : s.seq.inPhase s.phase = true) :
    KeepsConfiguration s ((fetchCore s).outcome s) := by
  unfold fetchCore
  cases hq : s.seq with
  | boundary => exact .next rfl
  | assemble b => exact fetchSegment_configuration b
  | curves => exact floorCurves_configuration
  | couple => exact coupleOp_configuration
  | synth => exact .next rfl
  | emit k => exact emit_configuration k
  | huffBuild | count _ | framing =>
    rw [hq, audio] at hp
    cases hp
  | packet | codebook | lengths | lookup | time _ _ | floor | residue | mapping | mode | window | floorPayload _
  | residuePayload _ => exact fetchUnit_configuration audio hp

theorem fetchCoreOrRest_configuration (hphase : s.phase = .audio ∨ s.phase.busy = false)
    (hp : s.phase.busy = true → s.seq.inPhase s.phase = true) : KeepsConfiguration s ((fetchCoreOrRest s).outcome s) := by
  unfold fetchCoreOrRest
  split
  · exact fetchCore_configuration (hphase.resolve_right (by simp [*])) (hp ‹_›)
  · exact .next rfl

/-- Once the core has started, a host write resets it or leaves the configuration alone (10_state.md R41). -/
theorem takeHostWrite_configuration {w : HostWrite} {rest : List HostWrite} (hidle : s.phase ≠ .idle)
    (hq : s.hostQ = w :: rest) (h : takeHostWrite w rest s = .next u) :
    u.phase = .idle ∧ s.resetArrived ∨ u.configuration = s.configuration := by
  obtain ⟨src, h⟩ : ∃ src, hostWrite w { s with hostQ := rest, src := src } = .next u := by
    unfold takeHostWrite at h
    dsimp only at h
    split at h
    · exact ⟨_, h⟩
    · exact ⟨s.src, h⟩
  obtain ⟨-, ⟨hbase, rfl⟩ | ⟨-, rfl⟩⟩ := hostWrite_next h
  · rcases writeCtrl_cases w.value { s with hostQ := rest, src := src } with ⟨h1, he⟩ | ⟨-, -, hi, -⟩ | ⟨-, -, he⟩
    · rw [he]
      exact .inl ⟨rfl, w, rest, hq, hbase, h1⟩
    · exact absurd hi hidle
    · rw [he]
      exact .inr rfl
  · exact .inr rfl

end

/-- Settles O57: no unit or act of an audio packet writes the configuration, and a core in `DONE` or `ERROR` rests. -/
theorem configurationReadOnly : Obligations.ConfigurationReadOnly := by
  unfold Obligations.ConfigurationReadOnly
  intro s t h hstep hphase
  have hcore : KeepsConfiguration s ((fetchCoreOrRest s).outcome s) := by
    refine fetchCoreOrRest_configuration (hphase.imp_right ?_) h.place
    rintro (he | he) <;> rw [he] <;> rfl
  have hidle : s.phase ≠ .idle := by
    rcases hphase with he | he | he <;> rw [he] <;> decide
  rw [sameConfig_iff]
  rw [step_eq, fetch] at hstep
  split at hstep
  · exact .inr (hcore t hstep)
  split at hstep
  · exact takeHostWrite_configuration hidle ‹_› hstep
  · exact .inr (hcore t hstep)

end Sys2Proof.Machine
end

section
/-! The two invariants at reset (70_reset_and_hazards.md R381). -/

namespace Sys2Proof.Machine

open Sys2Proof

/-- Settles O53: the reset state is what a soft reset makes of it (70_reset_and_hazards.md R381). -/
theorem invReset : Obligations.InvReset := by
  unfold Obligations.InvReset
  exact ⟨(softReset_sound State.reset).inv_of_rest rfl rfl, softReset_unclamped State.reset⟩

end Sys2Proof.Machine
end

section
/-! `pcm16` (47_synthesis.md R329). -/

namespace Sys2Proof

/-- A rounded quotient of integers, free of the half. -/
theorem RoundedAt.natAbs_le {v : ℤ} {q e : Nat} (h : RoundedAt v q e) :
    (2 * v - q * 2 ^ (e + 1)).natAbs ≤ 2 ^ e ∧ ((2 * v - q * 2 ^ (e + 1)).natAbs = 2 ^ e → q % 2 = 0) := by
  have hdist : ((2 * v - q * 2 ^ (e + 1)).natAbs : ℚ) = 2 * |(v : ℚ) - q * 2 ^ e| := by
    have hdouble : ((2 * v - q * 2 ^ (e + 1) : ℤ) : ℚ) = 2 * (v - q * 2 ^ e) := by push_cast; ring
    rw [Nat.cast_natAbs, Int.cast_abs, hdouble, abs_mul, abs_two]
  obtain ⟨hhalf, heven⟩ := h
  constructor
  · have : ((2 * v - q * 2 ^ (e + 1)).natAbs : ℚ) ≤ 2 ^ e := by linarith
    exact_mod_cast this
  · intro htie
    have : ((2 * v - q * 2 ^ (e + 1)).natAbs : ℚ) = 2 ^ e := by exact_mod_cast htie
    exact heven (by linarith)

/-- `pcmScaled` rounds `m * 2^e` to a multiple of `2^134`, which is one step of the PCM range. -/
theorem roundedAt_pcmScaled (m e : Nat) : RoundedAt (m * 2 ^ e) (pcmScaled m e) 134 := by
  have h := F32.roundedAt_quotient m e 134
  rw [zpow_natCast] at h
  unfold pcmScaled
  split
  case isTrue he =>
    have hle : ((134 : Nat) : ℤ) - e ≤ 0 := by omega
    have hshift : (-(((134 : Nat) : ℤ) - e)).toNat = e - 134 := by omega
    rwa [if_pos hle, hshift] at h
  case isFalse he =>
    have hgt : ¬ ((134 : Nat) : ℤ) - e ≤ 0 := by omega
    have hshift : (((134 : Nat) : ℤ) - e).toNat = 134 - e := by omega
    rwa [if_neg hgt, hshift] at h

/-- The integer that `pcm16` rounds a finite number to, before it is limited. -/
def pcmRounded (neg : Bool) (m e : Nat) : ℤ := if neg then -(pcmScaled m e : ℤ) else pcmScaled m e

theorem pcmInt_fin (neg : Bool) (m e : Nat) :
    pcmInt (.fin neg m e) = min 32767 (max (-32768) (pcmRounded neg m e)) := rfl

/-- It is within half a step of the number, and even where it is half a step away. -/
theorem pcmRounded_nearest (neg : Bool) (m e : Nat) :
    (2 * F32.scaled neg m e - pcmRounded neg m e * 2 ^ 135).natAbs ≤ 2 ^ 134
      ∧ ((2 * F32.scaled neg m e - pcmRounded neg m e * 2 ^ 135).natAbs = 2 ^ 134 → pcmRounded neg m e % 2 = 0) := by
  have hr : RoundedAt ((m <<< e : Nat) : ℤ) (pcmScaled m e) 134 := by
    rw [Nat.shiftLeft_eq]
    exact_mod_cast roundedAt_pcmScaled m e
  obtain ⟨hle, heven⟩ := hr.natAbs_le
  cases neg with
  | false => exact ⟨hle, fun htie => by have := heven htie; simp only [pcmRounded]; omega⟩
  | true =>
    have hneg : 2 * F32.scaled true m e - pcmRounded true m e * 2 ^ 135
        = -(2 * ((m <<< e : Nat) : ℤ) - pcmScaled m e * 2 ^ 135) := by
      simp only [F32.scaled, pcmRounded, if_true]
      ring
    rw [hneg, Int.natAbs_neg]
    exact ⟨hle, fun htie => by have := heven htie; simp only [pcmRounded, if_true]; omega⟩

theorem pcmInt_bounds (x : F32) : -32768 ≤ pcmInt x ∧ pcmInt x ≤ 32767 := by
  cases x with
  | nan => decide
  | inf s => cases s <;> decide
  | fin s m e => rw [pcmInt_fin]; omega

/-- The 16 bits of a sample hold the limited integer. -/
theorem pcm16_toInt (x : F32) : (pcm16 x).toInt = pcmInt x := by
  obtain ⟨hlo, hhi⟩ := pcmInt_bounds x
  rw [pcm16, BitVec.toInt_ofInt]
  exact Int.bmod_eq_of_le (by omega) (by omega)

/-- Settles O50: the rounded integer is the nearest, and limiting it changes it only past the ends of the range. -/
theorem pcm16_spec : Obligations.Pcm16 := by
  unfold Obligations.Pcm16
  refine ⟨rfl, rfl, rfl, fun neg m e => ?_⟩
  obtain ⟨hnear, heven⟩ := pcmRounded_nearest neg m e
  rw [pcm16_toInt, pcmInt_fin]
  generalize F32.scaled neg m e = v at *
  generalize pcmRounded neg m e = r at *
  refine ⟨fun hhigh => ?_, fun hlow => ?_, fun hlow hhigh => ?_⟩
  · omega
  · omega
  · have hr : min 32767 (max (-32768) r) = r := by omega
    rw [hr]
    exact ⟨hnear, heven⟩

end Sys2Proof
end

section
/-! Transform, window, overlap-add and interleaving of a frame (47_synthesis.md R320 to R331). -/

namespace Sys2Proof

/-- A canonical number has no other exponent at which its significand is one of 24 bits, or a smaller one at the least unit. -/
theorem F32.exponent_unique {m e k : Nat} (hm : m < 2 ^ 24) (hlead : e = 0 ∨ 2 ^ 23 ≤ m) (hlt : m * 2 ^ e < 2 ^ (k + 24))
    (hge : k = 0 ∨ 2 ^ (k + 23) ≤ m * 2 ^ e) : k = e := by
  have hke : k ≤ e := by
    rcases hge with rfl | hge
    · exact Nat.zero_le e
    · have hpow : 2 ^ (k + 23) < 2 ^ (e + 24) :=
        calc 2 ^ (k + 23) ≤ m * 2 ^ e := hge
          _ < 2 ^ 24 * 2 ^ e := (Nat.mul_lt_mul_right (by positivity)).2 hm
          _ = 2 ^ (e + 24) := by ring
      have := (Nat.pow_lt_pow_iff_right (by decide)).1 hpow
      omega
  have hek : e ≤ k := by
    rcases hlead with rfl | hlead
    · exact Nat.zero_le k
    · have hpow : 2 ^ (e + 23) < 2 ^ (k + 24) :=
        calc 2 ^ (e + 23) = 2 ^ 23 * 2 ^ e := by ring
          _ ≤ m * 2 ^ e := Nat.mul_le_mul_right _ hlead
          _ < 2 ^ (k + 24) := hlt
      have := (Nat.pow_lt_pow_iff_right (by decide)).1 hpow
      omega
  exact Nat.le_antisymm hke hek

/-- A canonical number is what its own value is rounded to (00_scope.md R10). -/
theorem F32.round_of_canonical {neg : Bool} {m e n : Nat} {sh : Int} (hn : 0 < n)
    (hc : (F32.fin neg m e).canonical = true) (hx : (n : ℚ) * 2 ^ sh = m * 2 ^ e) : F32.round neg n sh = .fin neg m e := by
  obtain ⟨hm, he, hlead⟩ := F32.canonical_fin.1 hc
  obtain ⟨q, k, hq, hlt, hge, hcases⟩ := F32.round_cases neg sh hn
  rw [hx] at hq hlt hge
  obtain rfl : k = e :=
    F32.exponent_unique hm hlead (by exact_mod_cast hlt) (hge.imp_right fun h => by exact_mod_cast h)
  have hexact : m * 2 ^ k = q * 2 ^ k := by exact_mod_cast hq.eq_of_multiple rfl
  obtain rfl := Nat.eq_of_mul_eq_mul_right (by positivity) hexact
  rcases hcases with ⟨-, -, hr⟩ | ⟨-, hcarry, -⟩ | ⟨hbig, -⟩
  · exact hr
  · omega
  · omega

/-- The flat part of the window leaves a sample unchanged (47_synthesis.md R323). -/
theorem F32.mul_one {x : F32} (hc : x.canonical = true) : F32.mul x F32.one = x := by
  cases x with
  | nan => rfl
  | inf s => simp [F32.mul, F32.one]
  | fin s m e =>
    rw [F32.one, F32.mul, Bool.bne_false]
    rcases Nat.eq_zero_or_pos m with rfl | hm
    · obtain rfl : e = 0 := (F32.canonical_fin.1 hc).2.2.resolve_right (by decide)
      rw [Nat.zero_mul, F32.round_zero]
    · refine F32.round_of_canonical (by positivity) hc ?_
      rw [show (e : Int) + (126 : Nat) - 149 = e - 23 by omega, zpow_sub₀ two_ne_zero, zpow_natCast]
      push_cast
      ring

/-- Outside its slopes the window silences a number. -/
theorem F32.mul_zero_isZero {x : F32} (hf : x.isFinite = true) : (F32.mul x F32.zero).isZero = true := by
  obtain ⟨s, m, e, rfl⟩ := F32.isFinite_iff.1 hf
  rfl

end Sys2Proof

namespace Sys2Proof.Machine

open Sys2Proof

/-! ### The transform (47_synthesis.md R320, R321) -/

theorem imdct_length (impl : Impl) (spectrum : List F32) (n : Nat) : (imdct impl spectrum n).length = n := by
  unfold imdct
  split
  · exact List.length_replicate
  split
  · unfold imdctReference
    split
    · exact (List.length_map _).trans List.length_range
    · exact (List.length_map _).trans List.length_range
  · exact (List.length_map _).trans List.length_range

theorem imdct_silent (impl : Impl) {spectrum : List F32} (n : Nat) (h : ∀ x ∈ spectrum, x.isZero = true) :
    imdct impl spectrum n = List.replicate n F32.zero := if_pos (List.all_eq_true.2 h)

/-! ### The window (47_synthesis.md R322, R323) -/

theorem windowOf_length (w : Impl) (b : WindowBounds) (n : Nat) : (windowOf w b n).length = n :=
  (List.length_map _).trans List.length_range

theorem windowOf_getElem? (w : Impl) (b : WindowBounds) {n i : Nat} (hi : i < n) :
    (windowOf w b n)[i]? = some (windowAt w b i) := by
  rw [windowOf, List.getElem?_map, List.getElem?_range hi]
  rfl

section
variable (w : Impl) {b : WindowBounds} {i : Nat}

theorem windowAt_before (h : i < b.ls) : windowAt w b i = F32.zero := if_pos h

theorem windowAt_rising (h : b.ls ≤ i) (h' : i < b.le) : windowAt w b i = windowSlope w b.ln (i - b.ls) := by
  rw [windowAt, if_neg (by omega), if_pos h']

theorem windowAt_flat (hl : b.ls ≤ b.le) (h : b.le ≤ i) (h' : i < b.rs) : windowAt w b i = F32.one := by
  rw [windowAt, if_neg (by omega), if_neg (by omega), if_pos h']

theorem windowAt_falling (hl : b.ls ≤ b.le) (hm : b.le ≤ b.rs) (h : b.rs ≤ i) (h' : i < b.re) :
    windowAt w b i = windowSlope w b.rn (b.re - 1 - i) := by
  rw [windowAt, if_neg (by omega), if_neg (by omega), if_neg (by omega), if_pos h']

theorem windowAt_after (hl : b.ls ≤ b.le) (hm : b.le ≤ b.rs) (hr : b.rs ≤ b.re) (h : b.re ≤ i) :
    windowAt w b i = F32.zero := by
  rw [windowAt, if_neg (by omega), if_neg (by omega), if_neg (by omega), if_neg (by omega)]

end

section
variable {n b0 : Nat} (blockflag prev next : Bool) (hn : 4 ∣ n) (hb : 4 ∣ b0) (hle : b0 ≤ n)
include hn hb hle

/-- The rising slope lies in the left half of the block (47_synthesis.md R322). -/
theorem windowBounds_rising {b : WindowBounds} (h : windowBounds n b0 blockflag prev next = b) :
    b.ls ≤ b.le ∧ b.le ≤ n / 2 ∧ b.le - b.ls = b.ln := by
  subst h
  dsimp only [windowBounds]
  split <;> omega

/-- The falling slope lies in its right half. -/
theorem windowBounds_falling {b : WindowBounds} (h : windowBounds n b0 blockflag prev next = b) :
    n / 2 ≤ b.rs ∧ b.rs ≤ b.re ∧ b.re ≤ n ∧ b.re - b.rs = b.rn := by
  subst h
  dsimp only [windowBounds]
  split <;> omega

end

/-! ### Overlap-add and carry (47_synthesis.md R325 to R328) -/

section
variable {pn cn j l : Nat} {carry time : List F32}

/-- The place in the new block of output sample `j`, the quarter points aligned. -/
theorem overlapAt_eq : overlapAt pn cn carry time j =
    if j < pn / 2 then
      (if pn / 4 ≤ cn / 4 + j ∧ cn / 4 + j < cn / 2 + pn / 4 then
        F32.add (carry.getD j F32.zero) (time.getD (cn / 4 + j - pn / 4) F32.zero)
      else carry.getD j F32.zero)
    else if pn / 4 ≤ cn / 4 + j ∧ cn / 4 + j < cn / 2 + pn / 4 then time.getD (cn / 4 + j - pn / 4) F32.zero
    else F32.zero := by
  have hin : (0 ≤ ((cn / 4 : Nat) : Int) - (pn / 4 : Nat) + j ∧ ((cn / 4 : Nat) : Int) - (pn / 4 : Nat) + j < (cn / 2 : Nat))
      ↔ (pn / 4 ≤ cn / 4 + j ∧ cn / 4 + j < cn / 2 + pn / 4) := by omega
  have hplace : (((cn / 4 : Nat) : Int) - (pn / 4 : Nat) + j).toNat = cn / 4 + j - pn / 4 := by omega
  simp only [overlapAt, hin, hplace]

theorem outputOf_first (hj : j < l) : (outputOf 0 cn l carry time).getD j F32.zero = F32.zero := by
  rw [outputOf, if_pos rfl, List.getD_replicate _ hj]

theorem outputOf_later (hp : pn ≠ 0) (hj : j < l) :
    (outputOf pn cn l carry time).getD j F32.zero = overlapAt pn cn carry time j := by
  rw [outputOf, if_neg hp, List.getD_eq_getElem?_getD, List.getElem?_map, List.getElem?_range hj]
  rfl

/-- The right half of the block is the new carry (47_synthesis.md R326). -/
theorem carryOf_getD (hlen : time.length = cn) {k : Nat} (hk : k < cn / 2) :
    (carryOf cn carry time).getD k F32.zero = time.getD (cn / 2 + k) F32.zero := by
  rw [carryOf, List.getD_append _ _ _ _ (by rw [List.length_drop]; omega), List.getD_eq_getElem?_getD, List.getElem?_drop,
    ← List.getD_eq_getElem?_getD]

end

/-! ### Interleaving (47_synthesis.md R330) -/

theorem interleave_succ (l : Nat) (outf : List (List F32)) :
    interleave (l + 1) outf = interleave l outf ++ outf.map fun row => pcm16 (row.getD l F32.zero) := by
  rw [interleave, List.range_succ, List.flatMap_append, List.flatMap_singleton]
  rfl

theorem interleave_length (outf : List (List F32)) (l : Nat) : (interleave l outf).length = outf.length * l := by
  induction l with
  | zero => rfl
  | succ l ih => rw [interleave_succ, List.length_append, ih, List.length_map, Nat.mul_succ]

/-- Sample frame `j` holds one sample of every channel, in their order. -/
theorem interleave_getElem? {outf : List (List F32)} {ch j : Nat} (hch : ch < outf.length) :
    ∀ {l : Nat}, j < l → (interleave l outf)[j * outf.length + ch]? = some (pcm16 ((outf.getD ch []).getD j F32.zero)) := by
  intro l hj
  induction l with
  | zero => omega
  | succ l ih =>
    rw [interleave_succ]
    rcases Nat.lt_succ_iff_lt_or_eq.1 hj with hlt | rfl
    · rw [List.getElem?_append_left, ih hlt]
      rw [interleave_length, Nat.mul_comm outf.length]
      calc j * outf.length + ch < (j + 1) * outf.length := by rw [Nat.succ_mul]; omega
        _ ≤ l * outf.length := Nat.mul_le_mul_right _ hlt
    · rw [List.getElem?_append_right (by rw [interleave_length, Nat.mul_comm]; omega), interleave_length, Nat.mul_comm,
        Nat.add_sub_cancel_left, List.getElem?_map, List.getElem?_eq_getElem hch, List.getD_eq_getElem outf [] hch]
      rfl

/-! ### The synthesis step (47_synthesis.md R331) -/

theorem step_synth {s : State} (hq : s.hostQ = []) (hb : s.phase.busy = true) (hseq : s.seq = .synth) :
    step s = synthesize s := by
  rw [step_busy hq hb, fetchCore, hseq]

section
variable {s : State} {ch : Nat}

theorem synthFrame_time_length (hlen : s.frame.spectrum.length = s.cfg.channels) (hch : ch < s.cfg.channels) :
    ((synthFrame s s.frame).time.getD ch []).length = s.frame.n := by
  rw [synthFrame, List.getD_eq_getElem?_getD, List.getElem?_map, List.getElem?_eq_getElem (by omega)]
  simp [imdct_length, windowOf_length]

theorem synthFrame_outf_length (s : State) (f : Frame) : (synthFrame s f).outf.length = s.cfg.channels :=
  (List.length_map _).trans List.length_range

theorem synthFrame_outf (f : Frame) (hch : ch < s.cfg.channels) :
    (synthFrame s f).outf.getD ch []
      = outputOf s.prevN f.n (synthFrame s f).outLen (s.carry.getD ch []) ((synthFrame s f).time.getD ch []) := by
  rw [synthFrame, List.getD_eq_getElem?_getD, List.getElem?_map, List.getElem?_range hch]
  rfl

theorem synthFrame_outf_first (f : Frame) {j : Nat} (hch : ch < s.cfg.channels) (hp : s.prevN = 0)
    (hj : j < (synthFrame s f).outLen) : ((synthFrame s f).outf.getD ch []).getD j F32.zero = F32.zero := by
  rw [synthFrame_outf f hch, hp]
  exact outputOf_first hj

theorem synthFrame_outf_later (f : Frame) {j : Nat} (hch : ch < s.cfg.channels) (hp : s.prevN ≠ 0)
    (hj : j < (synthFrame s f).outLen) : ((synthFrame s f).outf.getD ch []).getD j F32.zero
      = overlapAt s.prevN f.n (s.carry.getD ch []) ((synthFrame s f).time.getD ch []) j := by
  rw [synthFrame_outf f hch]
  exact outputOf_later hp hj

theorem synthFrame_outbuf (f : Frame) {j : Nat} (hch : ch < s.cfg.channels) (hj : j < (synthFrame s f).outLen) :
    (synthFrame s f).outbuf[j * s.cfg.channels + ch]? = some (pcm16 (((synthFrame s f).outf.getD ch []).getD j F32.zero)) := by
  rw [← synthFrame_outf_length s f] at hch ⊢
  exact interleave_getElem? hch hj

theorem carries_getD {n : Nat} {carry time : List (List F32)} (hch : ch < s.cfg.channels) :
    (carries s.cfg.channels n carry time).getD ch [] = carryOf n (carry.getD ch []) (time.getD ch []) := by
  rw [carries, List.getD_eq_getElem?_getD, List.getElem?_map, List.getElem?_range hch]
  rfl

end

theorem outputLength_eq (mode : FirstPacketMode) (pn cn : Nat) :
    outputLength mode pn cn = if pn = 0 then (if mode = .zeroQuarter then cn / 4 else 0) else pn / 4 + cn / 4 := by
  cases mode <;> rfl

/-- Settles O48: the step's frame and carry channel by channel, the window's bounds and parts, the flat parts and silence. -/
theorem synthesisStep : Obligations.SynthesisStep := by
  unfold Obligations.SynthesisStep
  refine ⟨fun s hq hb hseq hlen => ?step, fun n b0 blockflag prev next hn hb0 hle => ?bounds,
    fun w b n hl hm hr => ⟨windowOf_length w b n, fun i hi => ?window⟩,
    fun x => ⟨F32.mul_one, F32.mul_zero_isZero⟩, fun w spectrum n => imdct_silent w n⟩
  case step =>
    refine ⟨_, step_synth hq hb hseq, rfl, outputLength_eq _ _ _, ?_, rfl, fun ch hch => ?_, fun ch hch j hj => ?_⟩
    · exact (interleave_length _ _).trans (congrArg (· * _) (synthFrame_outf_length s s.frame))
    · refine ⟨synthFrame_time_length hlen hch, fun k hk => ?_⟩
      rw [carries_getD hch]
      exact carryOf_getD (synthFrame_time_length hlen hch) hk
    · refine ⟨synthFrame_outbuf s.frame hch hj, fun hp => synthFrame_outf_first s.frame hch hp hj, fun hp => ?_⟩
      have hout := (synthFrame_outf_later s.frame hch hp hj).trans overlapAt_eq
      exact ⟨fun h h' => by rw [hout, if_pos h, if_pos h'], fun h h' => by rw [hout, if_pos h, if_neg h'],
        fun h h' => by rw [hout, if_neg (Nat.not_lt.2 h), if_pos h']⟩
  case bounds =>
    obtain ⟨hrise, hleft, hln⟩ := windowBounds_rising blockflag prev next hn hb0 hle rfl
    obtain ⟨hright, hfall, hend, hrn⟩ := windowBounds_falling blockflag prev next hn hb0 hle rfl
    refine ⟨_, rfl, ?_, ?_, ?_, ?_, hrise, hleft.trans hright, hfall, hend, hln, hrn⟩
    · rintro rfl rfl
      exact ⟨rfl, rfl, rfl⟩
    · rintro (rfl | rfl) <;> simp [windowBounds]
    · rintro rfl rfl
      exact ⟨rfl, rfl, rfl⟩
    · rintro (rfl | rfl) <;> simp [windowBounds]
  case window =>
    rw [windowOf_getElem? w b hi]
    exact ⟨fun h => congrArg some (windowAt_before w h), fun h h' => congrArg some (windowAt_rising w h h'),
      fun h h' => congrArg some (windowAt_flat w hl h h'), fun h h' => congrArg some (windowAt_falling w hl hm h h'),
      fun h => congrArg some (windowAt_after w hl hm hr h)⟩

end Sys2Proof.Machine
end
